-- ==== Sys2Proof/Word.lean ====
section
/-! DEFINITION. The byte and the fixed-width unsigned values of CORE (spec/00_scope.md R9 to R14 and
section 5). Nothing in CORE is signed, so every type here is read unsigned. -/

namespace Sys2Proof

/-- A byte is a u8 (00_scope.md section 5). -/
abbrev Byte := BitVec 8

/-- A frame: a finite byte sequence with a known length, 0 or more bytes (20_memory.md R58). Byte 0 is
the head of the list. No length bound is set: FRAME_MAX is open (R16). -/
abbrev Frame := List Byte

/-- A pre-hash: `HL` opaque bytes, never read as a number (R9, R46). That there are exactly 32 of them is
a check of `Sys2Proof.Instr.wf` and an invariant of the state, not of the type. -/
abbrev PreHash := List Byte

/-- A seal: a byte sequence of any length; only one of length `NB` decodes (R63, R91). -/
abbrev Seal := List Byte

/-- A nonce: an unsigned integer in [0, 2^NW), NW = 256 (R10). -/
abbrev Nonce := BitVec 256

/-- A difficulty: an unsigned integer in [0, 2^DW), DW = 256 (R11). -/
abbrev Difficulty := BitVec 256

/-- A work value or a threshold: an unsigned integer in [0, 2^WW), WW = 64 (R12). -/
abbrev Work := BitVec 64

/-- A round: an unsigned integer in [0, 2^RW), RW = NW − WSHIFT = 224 (R14). -/
abbrev Round := BitVec 224

/-- An index within a window: a u20, in [0, WSIZE) (R13, R26). -/
abbrev Index := BitVec 20

end Sys2Proof
end

