-- ==== Sys2Proof/Config.lean ====
section
/-! DEFINITION. The implementation parameters with CORE's values (spec/00_scope.md R9 to R17), the
difficulty policy (R34, R117), and what the spec leaves open: the schedule (R8, U10), within the weak
fairness of R148, and the contents of the latches after a reset event (R36, R181, U8). Every
open value is an opaque constant without a body. -/

namespace Sys2Proof.Config

/-- `HL`: the length of a pre-hash in bytes (R9). -/
@[simp] abbrev HL : Nat := 32
/-- `NB`: the width of a nonce, and the length of a seal, in bytes (R10). -/
@[simp] abbrev NB : Nat := 32
/-- `DB`: the length of a difficulty in a frame (R11). -/
@[simp] abbrev DB : Nat := 32
/-- `RB`: the length of a round in a frame (R14). -/
@[simp] abbrev RB : Nat := 28
/-- The length of a work value or a threshold in a frame: WW / 8 (R12, R45). -/
@[simp] abbrev WB : Nat := 8
/-- `WSHIFT`: round r's window starts at r × 2^WSHIFT (R13). -/
@[simp] abbrev WSHIFT : Nat := 32
/-- `WSIZE`: the number of candidates in a window (R13). -/
@[simp] abbrev WSIZE : Nat := 2 ^ 20
/-- `M64`: the maximum 64-bit unsigned value (R12). -/
@[simp] abbrev M64 : Nat := 2 ^ 64 - 1
/-- `DCONST` = floor((2^64 − 1) / 1024) (R15). -/
@[simp] abbrev DCONST : Nat := (2 ^ 64 - 1) / 1024

/-- `POLICY`: the difficulty policy, a function from nothing to u256, whose value for CORE is the
constant function returning `DCONST` (R34, R117). -/
def policy (_ : Unit) : Difficulty := BitVec.ofNat 256 DCONST

/-- Who moves next, or what the outside does next. The spec has four agents (R8): FU, MU, and the host's
two, which appear as what they can do at the ports; and a reset event, which may occur between any two
steps (R180). -/
inductive Event where
  /-- A host agent sends a request frame on port F (R8, R54, R58). -/
  | sendF (f : Frame)
  /-- The authoring scheduler sends a request frame on port M (R8, R58, R145). -/
  | sendM (f : Frame)
  /-- The function unit FU takes its step, if it has one (R8, R49). -/
  | fu
  /-- The miner unit MU takes its ACCEPT or EVALUATE step, if one is enabled (R133, R134). -/
  | mu
  /-- The host takes MU's pending response: step DELIVER (R135, R136). -/
  | takeM
  /-- The reset event (R180, R181). -/
  | reset
deriving DecidableEq, Repr, Inhabited

/-- The schedule, and what the host does: left open by the spec (R8; 93_implementation_defined.md U10:
"every claim must hold for every schedule"). The n-th open event; nothing constrains it. Log entry 2. -/
opaque freeEvent : Nat → Event

/-- How many open events may pass before MU takes an enabled EVALUATE: finitely many, "the spec gives no time
for it" (R148). A new value for each EVALUATE; nothing constrains it. Log entry 13. -/
opaque freeWait : Nat → Nat

/-- MH after the n-th draw, unspecified after reset (R36, R181), as 256 bits that become `HL` bytes.
Log entry 4. -/
opaque freePreHash : Nat → BitVec 256
/-- MT after a reset event: unspecified (R36, R181). Log entry 4. -/
opaque freeThreshold : Nat → Work
/-- MR after a reset event: unspecified (R36, R181). Log entry 4. -/
opaque freeRound : Nat → Round
/-- MIDX after a reset event: unspecified (R36, R181). Log entry 4. -/
opaque freeIndex : Nat → Index
/-- MSEAL after a reset event: unspecified (R36, R181), as 256 bits that become `NB` bytes. Log entry 4. -/
opaque freeSeal : Nat → BitVec 256

end Sys2Proof.Config
end

