-- ==== Sys2Proof/Syntax.lean ====
section
/-! DEFINITION. The seven operations of CORE, one constructor per row of spec/opcode_table.json
(spec/30_encoding.md R69), with the operands of R72 in the order of the document's signatures (R80). -/

namespace Sys2Proof

/-- A well-decoded request: one of the seven operations the document defines (R69), with its operands
assembled as R72 says: a nonce, a difficulty and a round are numbers, a pre-hash and a seal are bytes. -/
inductive Instr where
  /-- `ENCODE n` (R92). -/
  | encode (n : Nonce)
  /-- `DECODE s` (R93). -/
  | decode (s : Seal)
  /-- `CHECKSUM h, n` (R103). -/
  | checksum (h : PreHash) (n : Nonce)
  /-- `T2T d` (R111). -/
  | t2t (d : Difficulty)
  /-- `GETDIFF` (R116). -/
  | getdiff
  /-- `VERIFY h, s, d` (R121). -/
  | verify (h : PreHash) (s : Seal) (d : Difficulty)
  /-- `MINE h, d, r` (R146). -/
  | mine (h : PreHash) (d : Difficulty) (r : Round)
deriving DecidableEq, Repr

end Sys2Proof
end

