-- ==== Sys2Proof/WellFormed.lean ====
section
/-! DEFINITION. Which terms of `Instr` are requests of CORE. The only condition a term can break is the
length of a pre-hash: HL = 32 bytes (spec/00_scope.md R9; 70_reset_and_hazards.md R191). Every other
operand value is legal (30_encoding.md R72), and a seal has any length (R63, R67). -/

namespace Sys2Proof

/-- The pre-hash operand has exactly `HL` bytes (R9, R64, R67, R68, R191). -/
def preHashOk (h : PreHash) : Bool := h.length == Config.HL

/-- The instruction is a request that a frame can carry (R72, R76). -/
def Instr.wf : Instr → Bool
  | .encode _ => true
  | .decode _ => true
  | .checksum h _ => preHashOk h
  | .t2t _ => true
  | .getdiff => true
  | .verify h _ _ => preHashOk h
  | .mine h _ _ => preHashOk h

end Sys2Proof
end

