-- ==== Sys2Proof/Decode.lean ====
section
/-! DEFINITION. Byte order (spec/00_scope.md R19, 20_memory.md R45), the request formats and the opcode
map (30_encoding.md R60 to R70), the total decoder of R76 and, after it, the encoder written from the same
tables; then the two functions the host asks for a word of the opcode table. -/

namespace Sys2Proof

/-! ### Byte order -/

/-- `le_N(v)`: the N-byte sequence whose byte i is bits[8i+7:8i] of v (R19). -/
def leBytes : Nat → Nat → List Byte
  | 0, _ => []
  | n + 1, v => BitVec.ofNat 8 v :: leBytes n (v / 256)

/-- `from_le(B)` = Σ B[i] × 2^(8i) (R19). -/
def fromLE : List Byte → Nat
  | [] => 0
  | b :: bs => b.toNat + 256 * fromLE bs

/-- `frame[a..b)`: bytes a, a+1, …, b−1 (00_scope.md section 5, R41). -/
def slice (f : Frame) (a b : Nat) : List Byte := (f.take b).drop a

/-! ### Ports, formats and the opcode map -/

/-- The two ports: F of the function unit, M of the miner unit (R8, R58). -/
inductive Port where
  /-- Port F, served by FU. -/
  | f
  /-- Port M, served by MU. -/
  | m
deriving DecidableEq, Repr

/-- The seven request formats, one per opcode (R62 to R68). -/
inductive Format where
  /-- One nonce (R62). -/
  | N
  /-- One seal (R63). -/
  | S
  /-- Pre-hash, nonce (R64). -/
  | HN
  /-- One difficulty (R65). -/
  | D
  /-- No operand (R66). -/
  | Z
  /-- Pre-hash, difficulty, seal (R67). -/
  | V
  /-- Pre-hash, difficulty, round (R68). -/
  | M
deriving DecidableEq, Repr

/-- The two frame errors: the only errors CORE has (60_exceptions.md R161, R162). -/
inductive FrameError where
  /-- A non-empty frame whose byte 0 is no opcode the port accepts (R161). -/
  | illegalOpcode
  /-- An empty frame, or one whose length its opcode's format does not allow (R162). -/
  | badLength
deriving DecidableEq, Repr

/-- What decoding a frame gives: a well-formed request or an error, by name (R76). -/
inductive Decoded where
  /-- The frame is this request. -/
  | request (i : Instr)
  /-- The frame is no call of any operation, and this is the error it gets. -/
  | error (e : FrameError)
deriving DecidableEq, Repr

/-- The opcode map: the whole byte is compared (R69); 0x00 and 0x08 to 0xFF are reserved (R74). -/
def formatOf (op : Byte) : Option Format :=
  if op = 0x01#8 then some .N
  else if op = 0x02#8 then some .S
  else if op = 0x03#8 then some .HN
  else if op = 0x04#8 then some .D
  else if op = 0x05#8 then some .Z
  else if op = 0x06#8 then some .V
  else if op = 0x07#8 then some .M
  else none

/-- Port F accepts 0x01 to 0x06, port M accepts 0x07 (R69, R70). -/
def Format.port : Format → Port
  | .M => .m
  | .N | .S | .HN | .D | .Z | .V => .f

/-- The legal length of a frame of the format, or its least legal length (R62 to R68). -/
def Format.minLength : Format → Nat
  | .N => 1 + Config.NB
  | .S => 1
  | .HN => 1 + Config.HL + Config.NB
  | .D => 1 + Config.DB
  | .Z => 1
  | .V => 1 + Config.HL + Config.DB
  | .M => 1 + Config.HL + Config.DB + Config.RB

/-- Formats N, HN, D, Z and M have one legal length each; formats S and V have a minimum length and no
maximum (R60). -/
def Format.lengthOk (m : Format) (len : Nat) : Bool :=
  match m with
  | .S | .V => decide (m.minLength ≤ len)
  | .N | .HN | .D | .Z | .M => decide (len = m.minLength)

/-- The pre-hash field: bytes 1 .. 1+HL of formats HN, V and M (R64, R67, R68). -/
def preHashField (f : Frame) : PreHash := slice f 1 (1 + Config.HL)

/-- The nonce whose little-endian field starts at byte `a` (R62, R64, R72). -/
def nonceField (f : Frame) (a : Nat) : Nonce := BitVec.ofNat 256 (fromLE (slice f a (a + Config.NB)))

/-- The difficulty whose little-endian field starts at byte `a` (R65, R67, R68, R72). -/
def difficultyField (f : Frame) (a : Nat) : Difficulty :=
  BitVec.ofNat 256 (fromLE (slice f a (a + Config.DB)))

/-- The round, bytes 1+HL+DB .. 1+HL+DB+RB of format M (R68, R72). -/
def roundField (f : Frame) : Round :=
  BitVec.ofNat 224 (fromLE (slice f (1 + Config.HL + Config.DB) (1 + Config.HL + Config.DB + Config.RB)))

/-- Operand assembly (R72, R76), for a frame whose opcode and length have been checked. -/
def assembleOperands (m : Format) (f : Frame) : Instr :=
  match m with
  | .N => .encode (nonceField f 1)
  | .S => .decode (slice f 1 f.length)
  | .HN => .checksum (preHashField f) (nonceField f (1 + Config.HL))
  | .D => .t2t (difficultyField f 1)
  | .Z => .getdiff
  | .V => .verify (preHashField f) (slice f (1 + Config.HL + Config.DB) f.length)
            (difficultyField f (1 + Config.HL))
  | .M => .mine (preHashField f) (difficultyField f (1 + Config.HL)) (roundField f)

/-- `decode_request(port, frame)`: total, in the order of R76 and R164: an empty frame, then the opcode,
then the length. -/
def decodeRequest (p : Port) (f : Frame) : Decoded :=
  match f with
  | [] => .error .badLength
  | op :: _ =>
    match formatOf op with
    | none => .error .illegalOpcode
    | some m =>
      if m.port = p then
        if m.lengthOk f.length then .request (assembleOperands m f) else .error .badLength
      else .error .illegalOpcode

/-! ### The encoder -/

/-- The operation's opcode (R69). -/
def Instr.opcode : Instr → Byte
  | .encode _ => 0x01#8
  | .decode _ => 0x02#8
  | .checksum _ _ => 0x03#8
  | .t2t _ => 0x04#8
  | .getdiff => 0x05#8
  | .verify _ _ _ => 0x06#8
  | .mine _ _ _ => 0x07#8

/-- The operation's format (R69). -/
def Instr.format : Instr → Format
  | .encode _ => .N
  | .decode _ => .S
  | .checksum _ _ => .HN
  | .t2t _ => .D
  | .getdiff => .Z
  | .verify _ _ _ => .V
  | .mine _ _ _ => .M

/-- The port that accepts the operation (R69, R70). -/
def Instr.port : Instr → Port
  | .encode _ | .decode _ | .checksum _ _ | .t2t _ | .getdiff | .verify _ _ _ => .f
  | .mine _ _ _ => .m

/-- The operand fields, packed in the format's order with no padding (R60, R62 to R68): in a VERIFY
frame the seal comes last (R67, R80). -/
def encodeOperands : Instr → List Byte
  | .encode n => leBytes Config.NB n.toNat
  | .decode s => s
  | .checksum h n => h ++ leBytes Config.NB n.toNat
  | .t2t d => leBytes Config.DB d.toNat
  | .getdiff => []
  | .verify h s d => h ++ leBytes Config.DB d.toNat ++ s
  | .mine h d r => h ++ leBytes Config.DB d.toNat ++ leBytes Config.RB r.toNat

/-- The request frame of an operation: `opcode ++ operands` (R60). -/
def encodeRequest (i : Instr) : Frame := i.opcode :: encodeOperands i

/-! ### The opcode table's words -/

/-- The frame of a table word: its bits little-endian byte by byte from byte 0, and zero bytes up to the
least length its opcode's format has. Log entry 8. -/
def frameOfTableWord (nbits w : Nat) : Frame :=
  let v := w % 2 ^ nbits
  let given := (nbits + 7) / 8
  match formatOf (BitVec.ofNat 8 v) with
  | none => leBytes given v
  | some m => leBytes (max given m.minLength) v

/-- The port a frame is sent on: M for the opcode port M accepts, F for any other frame (R70). -/
def portOfFrame (f : Frame) : Port :=
  match f with
  | [] => .f
  | op :: _ =>
    match formatOf op with
    | none => .f
    | some m => m.port

/-- What the decoder reads from a table word sent on its port, `none` where it answers an error. -/
def decodeTableWord (nbits w : Nat) : Option Instr :=
  let f := frameOfTableWord nbits w
  match decodeRequest (portOfFrame f) f with
  | .request i => some i
  | .error _ => none

end Sys2Proof
end

