-- ==== Sys2Proof/Machine/Flags.lean ====
section
/-! DEFINITION. CORE has no flag or condition-code register (spec/10_state.md R31): its boolean outcomes
are bytes of a response. This file gives the status codes (30_encoding.md R71) and the boolean byte
(R73). -/

namespace Sys2Proof.Machine

/-- The five statuses a response can carry (R71). -/
inductive Status where
  /-- The operation returned a value. -/
  | ok
  /-- `decode` returned none. -/
  | none
  /-- `mine` returned none. -/
  | exhausted
  /-- The opcode is not one the port accepts. -/
  | illegalOpcode
  /-- The frame is empty or its length is not legal. -/
  | badLength
deriving DecidableEq, Repr

/-- The status byte, byte 0 of a response (R61, R71). -/
def Status.code : Status → Byte
  | .ok => 0x00#8
  | .none => 0x01#8
  | .exhausted => 0x02#8
  | .illegalOpcode => 0xE1#8
  | .badLength => 0xE2#8

/-- The status a frame error is reported with (R161, R162). -/
def errorStatus : FrameError → Status
  | .illegalOpcode => .illegalOpcode
  | .badLength => .badLength

/-- A boolean is one byte, 0x01 for true and 0x00 for false (R73). -/
def boolByte (b : Bool) : Byte := if b then 0x01#8 else 0x00#8

end Sys2Proof.Machine
end

