-- ==== Sys2Proof/Machine/State.lean ====
section
/-! DEFINITION. The machine's state: the six elements of the miner unit MU, which are all the
architectural state CORE has (spec/10_state.md R21), the frames on the ports' channels (20_memory.md R58,
R145) and the model's own schedule (R8); its value after reset; and the reasons a step can stop. -/

namespace Sys2Proof.Machine

/-- MSTATE: the Miner's state (R22). The spec's 2-bit encoding is never visible to the host, so names
stand here. -/
inductive MState where
  /-- Idle = 0. -/
  | idle
  /-- Searching(round) = 1: the argument is MR. -/
  | searching
  /-- Found(seal) = 2: the argument is MSEAL. -/
  | found
  /-- Exhausted(round) = 3: the argument is MR. -/
  | exhausted
deriving DecidableEq, Repr

/-- Why a step could stop with a fault: there is no such reason. "Nothing in CORE maps to fault or stuck
as a hardware behaviour: every request is answered" (93_implementation_defined.md section 2; R166). -/
inductive Fault where
deriving DecidableEq, Repr

/-- Why a step could be refused. No meaning and no arm of this model raises the one constructor. -/
inductive Refusal where
  /-- Raised by an arm of `exec` whose instruction has no meaning yet (safe: the model says nothing about
  it). No arm raises it now. -/
  | notModelled (mnemonic : String)
deriving DecidableEq, Repr

/-- The state. -/
structure State where
  /-- MSTATE: the miner's state (R22). -/
  mstate : MState
  /-- MH: the pre-hash of the call, `HL` bytes as they stood in the request frame (R23). -/
  mh : PreHash
  /-- MT: the threshold of the call (R24). -/
  mt : Work
  /-- MR: the round of the call (R25). -/
  mr : Round
  /-- MIDX: the offset within the window of the next candidate to evaluate (R26). -/
  midx : Index
  /-- MSEAL: the seal of the found nonce, `NB` bytes (R27). -/
  mseal : Seal
  /-- Request frames sent on port F and not yet handled, oldest first (R51, R58, R181). -/
  reqF : List Frame
  /-- Request frames sent on port M and not yet handled, oldest first (R51, R58, R145, R181). -/
  reqM : List Frame
  /-- Response frames port F has emitted, oldest first (R51, R58). -/
  rspF : List Frame
  /-- Response frames port M has delivered, oldest first (R51, R58, R135, R136). -/
  rspM : List Frame
  /-- THE MODEL'S OWN: the events known to come, in order (R8, R180). When none is left, the next event
  is a free value. Log entry 2. -/
  inputs : List Config.Event
  /-- THE MODEL'S OWN: how many free values have been drawn. Log entries 2 and 4. -/
  drawn : Nat
  /-- THE MODEL'S OWN: how many open events have passed since MU's EVALUATE became enabled or was last taken
  (R148). Log entry 13. -/
  waited : Nat
deriving DecidableEq, Repr

/-- The machine right after reset: MSTATE = Idle (R36, R181), no frame on any channel (R181), the five
latches at zero (unspecified in the spec: log entry 1, DESIGN CHOICE), nothing scheduled, nothing waited
for. -/
def State.reset : State where
  mstate := .idle
  mh := List.replicate Config.HL 0#8
  mt := 0#64
  mr := 0#224
  midx := 0#20
  mseal := List.replicate Config.NB 0#8
  reqF := []
  reqM := []
  rspF := []
  rspM := []
  inputs := []
  drawn := 0
  waited := 0

end Sys2Proof.Machine
end

