-- ==== Sys2Proof/Machine/Operands.lean ====
section
/-! DEFINITION. How values stand in frames. Request operands are assembled by `Sys2Proof.decodeRequest`
(spec/30_encoding.md R72, R76); here are the result fields of a response (R45, R61, R73) and the candidate
that MU reads as its operand (10_state.md R28). -/

namespace Sys2Proof.Machine

/-- A response frame is `status ++ results` (R61). -/
def response (st : Status) (results : List Byte) : Frame := st.code :: results

/-- A work value or a threshold in a frame: le_8 (R45). -/
def workBytes (w : Work) : List Byte := leBytes Config.WB w.toNat

/-- A nonce in a frame: le_NB (R45). -/
def nonceBytes (n : Nonce) : List Byte := leBytes Config.NB n.toNat

/-- A difficulty in a frame: le_DB (R45). -/
def difficultyBytes (d : Difficulty) : List Byte := leBytes Config.DB d.toNat

/-- A round in a frame: le_RB (R45). -/
def roundBytes (r : Round) : List Byte := leBytes Config.RB r.toNat

/-- Candidate i of round r's window: r × 2^WSHIFT + i (R13, R28, R131). For i < WSIZE the sum is below
2^NW, so nothing is cut off. -/
def candidateAt (r : Round) (i : Nat) : Nonce := BitVec.ofNat 256 (r.toNat * 2 ^ Config.WSHIFT + i)

/-- `MCAND` = MR × 2^WSHIFT + MIDX: the candidate nonce, not stored (R28). -/
def candidate (s : State) : Nonce := candidateAt s.mr s.midx.toNat

end Sys2Proof.Machine
end

