-- ==== Sys2Proof/Machine/Ops.lean ====
section
/-! DEFINITION. The shared operations on the ports and the state: `respond` and `raise`
(spec/00_scope.md section 5), sending and taking request frames (20_memory.md R51, R58), the reset event
(70_reset_and_hazards.md R181), and the schedule with its weak fairness (45_miner.md R148). CORE has no trap
entry, no saved register and no return (60_exceptions.md R168, R169): reporting a frame error is all its exception mechanism. -/

namespace Sys2Proof.Machine

/-- `respond(F)`: emit the response frame on the port the request came from (00_scope.md section 5). -/
def respond (p : Port) (f : Frame) (s : State) : State :=
  match p with
  | .f => { s with rspF := s.rspF ++ [f] }
  | .m => { s with rspM := s.rspM ++ [f] }

/-- `raise <Error>()`: emit the one-byte error response and change no state (R161, R162, R165). -/
def raiseError (p : Port) (e : FrameError) (s : State) : State :=
  respond p (response (errorStatus e) []) s

/-- The host sends a request frame: it waits behind the frames sent before it (R51, R58). -/
def send (p : Port) (f : Frame) (s : State) : State :=
  match p with
  | .f => { s with reqF := s.reqF ++ [f] }
  | .m => { s with reqM := s.reqM ++ [f] }

/-- The frames waiting on a port, oldest first (R51). -/
def waiting (p : Port) (s : State) : List Frame :=
  match p with
  | .f => s.reqF
  | .m => s.reqM

/-- The frames waiting on a port become `q`. -/
def setWaiting (p : Port) (q : List Frame) (s : State) : State :=
  match p with
  | .f => { s with reqF := q }
  | .m => { s with reqM := q }

/-- The reset event: MSTATE <- Idle; MH, MT, MR, MIDX, MSEAL unspecified (free values); the frames waiting
on either port are discarded; a call in progress gets no response (R180, R181). Responses already emitted
are the host's (log entry 3). -/
def resetEvent (s : State) : State :=
  { s with
    mstate := .idle
    mh := leBytes Config.HL (Config.freePreHash s.drawn).toNat
    mt := Config.freeThreshold s.drawn
    mr := Config.freeRound s.drawn
    midx := Config.freeIndex s.drawn
    mseal := leBytes Config.NB (Config.freeSeal s.drawn).toNat
    reqF := []
    reqM := []
    drawn := s.drawn + 1 }

/-- MU's enabled EVALUATE has waited as long as it ever will (R148). The wait is `freeWait` of the number of
draws there had been when it began. -/
def evaluateDue (s : State) : Bool :=
  decide (s.mstate = .searching ∧ Config.freeWait (s.drawn - s.waited) ≤ s.waited)

/-- The next open event: any (R8, U10; log entry 2), but MU's turn when its EVALUATE is due (R148; log
entry 13). -/
def openEvent (s : State) : Config.Event :=
  if evaluateDue s then .mu else Config.freeEvent s.drawn

/-- How long an enabled EVALUATE has waited once the open event has been drawn (R148). -/
def waitedAfter (s : State) : Nat :=
  if s.mstate = .searching ∧ openEvent s ≠ .mu then s.waited + 1 else 0

/-- The event that happens next: the first one known to come, else an open one (R8, U10; log entry 2). -/
def nextEvent (s : State) : Config.Event :=
  match s.inputs with
  | e :: _ => e
  | [] => openEvent s

/-- The state once the next event has been drawn. -/
def afterEvent (s : State) : State :=
  match s.inputs with
  | _ :: es => { s with inputs := es }
  | [] => { s with drawn := s.drawn + 1, waited := waitedAfter s }

end Sys2Proof.Machine
end

