-- ==== Sys2Proof/Machine/DifficultyPolicy.lean ====
section
/-! DEFINITION. Difficulty Policy: the replaceable policy, a constant in CORE, and the operation GETDIFF
(spec/43_difficulty_policy.md R115 to R118). -/

namespace Sys2Proof.Machine

/-- `current_difficulty()`: takes no argument and reads no state (R115, R117). -/
def currentDifficulty : Difficulty := Config.policy ()

/-- GETDIFF: `respond(00 ++ le_32(POLICY()))` (R116). -/
def execGetdiff (s : State) : Host.Outcome State Fault Refusal :=
  .next (respond .f (response .ok (difficultyBytes currentDifficulty)) s)

end Sys2Proof.Machine
end

