-- ==== Sys2Proof/Machine/SealCodec.lean ====
section
/-! DEFINITION. Seal Codec: the functions `encode` and `decode` and the operations ENCODE and DECODE
(spec/40_seal_codec.md R90 to R95). -/

namespace Sys2Proof.Machine

/-- `encode(n)` = le_NB(n) (R90). -/
def encodeSeal (n : Nonce) : Seal := leBytes Config.NB n.toNat

/-- `decode(s)`: the length is the only test (R91). -/
def decodeSeal (s : Seal) : Option Nonce :=
  if s.length = Config.NB then some (BitVec.ofNat 256 (fromLE s)) else none

/-- ENCODE n: `respond(00 ++ encode(n))` (R92). -/
def execEncode (n : Nonce) (s : State) : Host.Outcome State Fault Refusal :=
  .next (respond .f (response .ok (encodeSeal n)) s)

/-- The response of DECODE (R93). -/
def decodeResponse (b : Seal) : Frame :=
  match decodeSeal b with
  | some n => response .ok (nonceBytes n)
  | none => response .none []

/-- DECODE s: OK with the nonce, or NONE, which is a value and not an error (R93). -/
def execDecode (b : Seal) (s : State) : Host.Outcome State Fault Refusal :=
  .next (respond .f (decodeResponse b) s)

end Sys2Proof.Machine
end

