-- ==== Sys2Proof/Machine/ThresholdConverter.lean ====
section
/-! DEFINITION. Threshold Converter: the 256-bit to 64-bit saturating clamp and the operation T2T
(spec/42_threshold_converter.md R110 to R113). -/

namespace Sys2Proof.Machine

/-- `target_to_threshold(d)`: bits[63:0] of d if d ≤ M64, else M64 (R110). -/
def targetToThreshold (d : Difficulty) : Work :=
  if d.toNat ≤ Config.M64 then d.setWidth 64 else BitVec.ofNat 64 Config.M64

/-- T2T d: `respond(00 ++ le_8(target_to_threshold(d)))` (R111). -/
def execT2t (d : Difficulty) (s : State) : Host.Outcome State Fault Refusal :=
  .next (respond .f (response .ok (workBytes (targetToThreshold d))) s)

end Sys2Proof.Machine
end

