-- ==== Sys2Proof/Machine/WorkFunction.lean ====
section
/-! DEFINITION. Work Function: the modular byte-sum accumulator and the operation CHECKSUM
(spec/41_work_function.md R100 to R107). -/

namespace Sys2Proof.Machine

/-- `add64(a, b)` = (a + b) mod 2^64: no trap, no carry or overflow output (R18). -/
def add64 (a b : Work) : Work := BitVec.ofNat 64 (a.toNat + b.toNat)

/-- The accumulator step: the byte is unsigned and zero-extended to 64 bits (R101, D29). -/
def accStep (acc : Work) (b : Byte) : Work := add64 acc (b.setWidth 64)

/-- `checksum(h, n)`: every byte of the pre-hash, then every byte of le_NB(n), added to an accumulator
that starts at 0 (R100, R102). -/
def checksum (h : PreHash) (n : Nonce) : Work := (h ++ leBytes Config.NB n.toNat).foldl accStep 0#64

/-- CHECKSUM h, n: `respond(00 ++ le_8(checksum(h, n)))` (R103). -/
def execChecksum (h : PreHash) (n : Nonce) (s : State) : Host.Outcome State Fault Refusal :=
  .next (respond .f (response .ok (workBytes (checksum h n))) s)

end Sys2Proof.Machine
end

