-- ==== Sys2Proof/Machine/Verifier.lean ====
section
/-! DEFINITION. Verifier: codec, work function and converter composed into a boolean, and the operation
VERIFY (spec/44_verifier.md R120 to R126). -/

namespace Sys2Proof.Machine

/-- The candidate passes: its work is strictly less than the threshold, unsigned 64-bit compare (R120
step 4, R122, R130 step 3). -/
def passes (h : PreHash) (n : Nonce) (t : Work) : Bool := decide (checksum h n < t)

/-- `verify(h, s, d)`: total, never an error (R120, R123). -/
def verify (h : PreHash) (b : Seal) (d : Difficulty) : Bool :=
  match decodeSeal b with
  | none => false
  | some n => passes h n (targetToThreshold d)

/-- VERIFY h, s, d: `00 01` for true, `00 00` for false (R121). -/
def execVerify (h : PreHash) (b : Seal) (d : Difficulty) (s : State) : Host.Outcome State Fault Refusal :=
  .next (respond .f (response .ok [boolByte (verify h b d)]) s)

end Sys2Proof.Machine
end

