-- ==== Sys2Proof/Machine/Miner.lean ====
section
/-! DEFINITION. Miner: the function `mine` (spec/45_miner.md R130) and the state machine by which MU
computes it: steps ACCEPT (R133), EVALUATE (R134) and DELIVER (R135, R136). -/

namespace Sys2Proof.Machine

/-- The two outcomes of a mine call (R130). -/
inductive MineResult where
  /-- Found(seal). -/
  | found (b : Seal)
  /-- Exhausted(r). -/
  | exhausted (r : Round)
deriving DecidableEq, Repr

/-- The scan of R130 from index i over the next `fuel` candidates, in increasing numeric order. -/
def scan (h : PreHash) (t : Work) (r : Round) : Nat → Nat → MineResult
  | 0, _ => .exhausted r
  | fuel + 1, i =>
    if passes h (candidateAt r i) t then .found (encodeSeal (candidateAt r i))
    else scan h t r fuel (i + 1)

/-- `mine(h, d, r)`: the first passing candidate of the window, as a seal, or Exhausted (R130). -/
def mine (h : PreHash) (d : Difficulty) (r : Round) : MineResult :=
  scan h (targetToThreshold d) r Config.WSIZE 0

/-- The response of a mine call: `00 ++ seal` or `02 ++ le_RB(round)` (R135, R136, R146). -/
def mineResponse : MineResult → Frame
  | .found b => response .ok b
  | .exhausted r => response .exhausted (roundBytes r)

/-- Step ACCEPT of a well-formed MINE: the operands are copied and nothing is emitted (R133). -/
def accept (h : PreHash) (d : Difficulty) (r : Round) (s : State) : State :=
  { s with
    mh := h
    mt := targetToThreshold d
    mr := r
    midx := 0#20
    mstate := .searching }

/-- Step EVALUATE: exactly one candidate (R134). -/
def evaluate (s : State) : State :=
  if passes s.mh (candidate s) s.mt then
    { s with mseal := encodeSeal (candidate s), mstate := .found }
  else if s.midx.toNat = Config.WSIZE - 1 then
    { s with mstate := .exhausted }
  else
    { s with midx := s.midx + 1#20 }

/-- The response that exists in Found and in Exhausted and has not been delivered (R33, R135, R136). -/
def pendingResponse (s : State) : Option Frame :=
  match s.mstate with
  | .found => some (mineResponse (.found s.mseal))
  | .exhausted => some (mineResponse (.exhausted s.mr))
  | .idle | .searching => none

/-- Step DELIVER, when the host takes the response: it is emitted and MU is Idle again (R135, R136). With
no response pending there is nothing to take and nothing changes. -/
def deliver (s : State) : State :=
  match pendingResponse s with
  | some f => { respond .m f s with mstate := .idle }
  | none => s

/-- MINE h, d, r: in Idle, step ACCEPT (R133), which EVALUATE and DELIVER follow as steps of MU. While a
call is in progress port M takes no request: the request waits at the head of the port, neither rejected
nor lost (R145). -/
def execMine (h : PreHash) (d : Difficulty) (r : Round) (s : State) : Host.Outcome State Fault Refusal :=
  if s.mstate = .idle then .next (accept h d r s)
  else .next (setWaiting .m (encodeRequest (.mine h d r) :: waiting .m s) s)

end Sys2Proof.Machine
end

