-- ==== Sys2Proof/Machine/Dispatch.lean ====
section
/-! DEFINITION. One arm per operation of spec/30_encoding.md R69. -/

namespace Sys2Proof.Machine

/-- The meaning of each operation (R69). -/
def exec (i : Instr) (s : State) : Host.Outcome State Fault Refusal :=
  match i with
  | .encode n => Sys2Proof.Machine.execEncode n s
  | .decode b => Sys2Proof.Machine.execDecode b s
  | .checksum h n => Sys2Proof.Machine.execChecksum h n s
  | .t2t d => Sys2Proof.Machine.execT2t d s
  | .getdiff => Sys2Proof.Machine.execGetdiff s
  | .verify h b d => Sys2Proof.Machine.execVerify h b d s
  | .mine h d r => Sys2Proof.Machine.execMine h d r s

end Sys2Proof.Machine
end

