-- ==== Sys2Proof/Machine/Units.lean ====
section
/-! DEFINITION. The agents' steps (spec/00_scope.md R8): FU handles one whole request frame (20_memory.md
R49), MU takes one of its steps (45_miner.md R133, R134, R144), and the host's and the platform's events.
An agent that has no enabled step leaves the machine as it is (60_exceptions.md R175). -/

namespace Sys2Proof.Machine

/-- Handling the oldest frame that waits on a port: decode it (R76), then run the request or report the
error (R161, R162). With no frame waiting nothing happens. -/
def handleFrame (p : Port) (s : State) : Host.Outcome State Fault Refusal :=
  match waiting p s with
  | [] => .next s
  | f :: q =>
    match decodeRequest p f with
    | .request i => exec i (setWaiting p q s)
    | .error e => .next (raiseError p e (setWaiting p q s))

/-- FU's step: one request on port F and its response, atomic (R49). -/
def fuStep (s : State) : Host.Outcome State Fault Refusal := handleFrame .f s

/-- MU's own steps: ACCEPT in Idle, EVALUATE in Searching (R133, R134); in Found and Exhausted port M
takes no request and MU waits for the host (R135, R136, R145). -/
def muStep (s : State) : Host.Outcome State Fault Refusal :=
  match s.mstate with
  | .idle => handleFrame .m s
  | .searching => .next (evaluate s)
  | .found => .next s
  | .exhausted => .next s

/-- One event. -/
def perform (e : Config.Event) (s : State) : Host.Outcome State Fault Refusal :=
  match e with
  | .sendF f => .next (send .f f s)
  | .sendM f => .next (send .m f s)
  | .fu => fuStep s
  | .mu => muStep s
  | .takeM => .next (deliver s)
  | .reset => .next (resetEvent s)

/-- The word's frame at the head of its port, its unit's turn next, and for port M an idle MU, so that the
very next step handles it. -/
def placeFrame (f : Frame) (s : State) : State :=
  match portOfFrame f with
  | .f => { s with reqF := f :: s.reqF, inputs := .fu :: s.inputs }
  | .m => { s with reqM := f :: s.reqM, inputs := .mu :: s.inputs, mstate := .idle }

end Sys2Proof.Machine
end

