-- ==== Sys2Proof/Machine/Step.lean ====
section
/-! DEFINITION. One step of the machine: the next event happens (spec/00_scope.md R7, R8). -/

namespace Sys2Proof.Machine

/-- One step: draw the next event and perform it. -/
def step (s : State) : Host.Outcome State Fault Refusal := perform (nextEvent s) (afterEvent s)

/-- The state in which the next step handles the table word's frame (log entry 8). -/
def State.withFetchWord (s : State) (nbits w : Nat) : State := placeFrame (frameOfTableWord nbits w) s

end Sys2Proof.Machine
end

