-- ==== Sys2Proof/Machine/Assembly.lean ====
section
/-! DEFINITION. The notation for requests (spec/30_encoding.md R80): a mnemonic followed by the operands
in the document's argument order, which for VERIFY is h, s, d and not the frame's h, d, s (R67), and for
responses; and how a host reads a response back (R73, R78). It is the host's side, not part of a step; no
pseudo-instruction exists (R81). Log entry 14. -/

namespace Sys2Proof.Machine

/-- An operand as it is written: an integer or a byte sequence (R80). -/
inductive AsmOperand where
  /-- An integer operand (n, d, r). -/
  | int (v : Nat)
  /-- A byte-sequence operand (h, s). -/
  | bytes (b : List Byte)
deriving DecidableEq, Repr

/-- The mnemonics of R69. -/
def mnemonicOf : Instr → String
  | .encode _ => "ENCODE"
  | .decode _ => "DECODE"
  | .checksum _ _ => "CHECKSUM"
  | .t2t _ => "T2T"
  | .getdiff => "GETDIFF"
  | .verify _ _ _ => "VERIFY"
  | .mine _ _ _ => "MINE"

/-- The operands in the order they are written (R80). -/
def asmOperandsOf : Instr → List AsmOperand
  | .encode n => [.int n.toNat]
  | .decode s => [.bytes s]
  | .checksum h n => [.bytes h, .int n.toNat]
  | .t2t d => [.int d.toNat]
  | .getdiff => []
  | .verify h s d => [.bytes h, .bytes s, .int d.toNat]
  | .mine h d r => [.bytes h, .int d.toNat, .int r.toNat]

/-- An integer operand at a field's width; one that does not fit cannot be written in the field (R10, R11,
R14). -/
def fitInt (w v : Nat) : Option (BitVec w) := if v < 2 ^ w then some (BitVec.ofNat w v) else none

/-- A pre-hash operand: exactly `HL` bytes (R9, R191). -/
def fitPreHash (h : List Byte) : Option PreHash := if preHashOk h then some h else none

/-- Reading a written request; `none` where it is no request of CORE (R80). -/
def assemble (mn : String) (ops : List AsmOperand) : Option Instr :=
  if mn = "ENCODE" then
    match ops with
    | [.int n] => (fitInt 256 n).map .encode
    | _ => none
  else if mn = "DECODE" then
    match ops with
    | [.bytes s] => some (.decode s)
    | _ => none
  else if mn = "CHECKSUM" then
    match ops with
    | [.bytes h, .int n] => (fitPreHash h).bind fun h => (fitInt 256 n).map (.checksum h)
    | _ => none
  else if mn = "T2T" then
    match ops with
    | [.int d] => (fitInt 256 d).map .t2t
    | _ => none
  else if mn = "GETDIFF" then
    match ops with
    | [] => some .getdiff
    | _ => none
  else if mn = "VERIFY" then
    match ops with
    | [.bytes h, .bytes s, .int d] => (fitPreHash h).bind fun h => (fitInt 256 d).map (.verify h s)
    | _ => none
  else if mn = "MINE" then
    match ops with
    | [.bytes h, .int d, .int r] =>
      (fitPreHash h).bind fun h => (fitInt 256 d).bind fun d => (fitInt 224 r).map (.mine h d)
    | _ => none
  else none

/-- A response as it is written after the arrow (R80). -/
inductive AsmReply where
  /-- `OK <field>`. -/
  | ok (field : AsmOperand)
  /-- `OK true` or `OK false`. -/
  | okBool (b : Bool)
  /-- `NONE`. -/
  | none
  /-- `EXHAUSTED r`. -/
  | exhausted (r : Nat)
  /-- `ILLEGAL_OPCODE`. -/
  | illegalOpcode
  /-- `BAD_LENGTH`. -/
  | badLength
deriving DecidableEq, Repr

/-- The result fields of an OK response to a request (R73): a seal is bytes, a number is little-endian, a
boolean is one byte. -/
def readResults (i : Instr) (results : List Byte) : Option AsmReply :=
  match i with
  | .encode _ => if results.length = Config.NB then some (.ok (.bytes results)) else none
  | .decode _ => if results.length = Config.NB then some (.ok (.int (fromLE results))) else none
  | .checksum _ _ => if results.length = Config.WB then some (.ok (.int (fromLE results))) else none
  | .t2t _ => if results.length = Config.WB then some (.ok (.int (fromLE results))) else none
  | .getdiff => if results.length = Config.DB then some (.ok (.int (fromLE results))) else none
  | .verify _ _ _ =>
    if results = [0x01#8] then some (.okBool true)
    else if results = [0x00#8] then some (.okBool false) else none
  | .mine _ _ _ => if results.length = Config.NB then some (.ok (.bytes results)) else none

/-- How a host that sent request `i` reads the response frame; `none` for a frame that R73 does not list,
on which "a host that sees one must treat the link as broken" (93_implementation_defined.md U12). -/
def readReply (i : Instr) (f : Frame) : Option AsmReply :=
  match f with
  | [] => none
  | st :: results =>
    if st = Status.ok.code then readResults i results
    else if st = Status.none.code then
      match i, results with
      | .decode _, [] => some .none
      | _, _ => none
    else if st = Status.exhausted.code then
      match i with
      | .mine _ _ _ => if results.length = Config.RB then some (.exhausted (fromLE results)) else none
      | .encode _ | .decode _ | .checksum _ _ | .t2t _ | .getdiff | .verify _ _ _ => none
    else if st = Status.illegalOpcode.code then
      if results = [] then some .illegalOpcode else none
    else if st = Status.badLength.code then
      if results = [] then some .badLength else none
    else none

/-- A hexadecimal digit. -/
def hexDigit (n : Nat) : Char := if n < 10 then Char.ofNat (48 + n) else Char.ofNat (55 + n)

/-- The decimal digits of a number of at most `fuel` digits. -/
def decimalDigits : Nat → Nat → List Char
  | 0, _ => []
  | fuel + 1, n =>
    if n < 10 then [Char.ofNat (48 + n)] else decimalDigits fuel (n / 10) ++ [Char.ofNat (48 + n % 10)]

/-- An operand in characters: an integer in decimal (78 digits hold a u256), a byte sequence as `x"…"` with
two hexadecimal digits per byte, first byte left (R80). -/
def spellOperand : AsmOperand → List Char
  | .int v => decimalDigits 78 v
  | .bytes b => ['x', '"'] ++ b.flatMap (fun c => [hexDigit (c.toNat / 16), hexDigit (c.toNat % 16)]) ++ ['"']

/-- A request in characters: the mnemonic, then its operands separated by commas (R80). -/
def spellRequest (i : Instr) : List Char :=
  (mnemonicOf i).toList ++
    match (asmOperandsOf i).map spellOperand with
    | [] => []
    | o :: os => ' ' :: o ++ os.flatMap (fun c => [',', ' '] ++ c)

/-- A response in characters, written after `->` (R80). -/
def spellReply : AsmReply → List Char
  | .ok field => "-> OK ".toList ++ spellOperand field
  | .okBool true => "-> OK true".toList
  | .okBool false => "-> OK false".toList
  | .none => "-> NONE".toList
  | .exhausted r => "-> EXHAUSTED ".toList ++ decimalDigits 78 r
  | .illegalOpcode => "-> ILLEGAL_OPCODE".toList
  | .badLength => "-> BAD_LENGTH".toList

end Sys2Proof.Machine
end

