-- ==== Sys2Proof/Safety.lean ====
section
/-! DEFINITION. The terms in which claims about CORE are made: runs, the answer a request is owed
(spec/30_encoding.md R73), the invariant of the miner's latches (10_state.md R23 to R27), and when two
states differ only in latches that mean nothing (R35). -/

namespace Sys2Proof.Machine

/-- `k` steps, stopping at the first fault or refusal. -/
def run : Nat → State → Host.Outcome State Fault Refusal
  | 0, s => .next s
  | k + 1, s =>
    match step s with
    | .next t => run k t
    | .fault r => .fault r
    | .refused r => .refused r

/-- The outcome is a next state: nothing in CORE ends a run (60_exceptions.md, opening; R166). -/
def goesOn (o : Host.Outcome State Fault Refusal) : Prop := ∃ t, o = .next t

/-- The state with exactly these events to come. -/
def withInputs (es : List Config.Event) (s : State) : State := { s with inputs := es }

/-- The run over the first `n` events of a schedule that never ends. -/
def runSchedule (σ : Nat → Config.Event) (n : Nat) (s : State) : Host.Outcome State Fault Refusal :=
  run n (withInputs ((List.range n).map σ) s)

/-- In the run of the schedule from `s`, from event `n` on, every state has the property. -/
def AlwaysFrom (σ : Nat → Config.Event) (s : State) (n : Nat) (p : State → Prop) : Prop :=
  ∀ (m : Nat) (t : State), n ≤ m → runSchedule σ m s = .next t → p t

/-- Weak fairness of MU's EVALUATE (R148): it does not stay enabled for ever without MU having its turn. -/
def EvaluateIsWeaklyFair (σ : Nat → Config.Event) (s : State) : Prop :=
  ∀ n, AlwaysFrom σ s n (fun t => t.mstate = .searching) → ∃ m, n ≤ m ∧ σ m = .mu

/-- R148's assumption on the host, as weak as MU's: a response does not stay pending for ever without the host
taking it. -/
def HostTakesResponses (σ : Nat → Config.Event) (s : State) : Prop :=
  ∀ n, AlwaysFrom σ s n (fun t => pendingResponse t ≠ none) → ∃ m, n ≤ m ∧ σ m = .takeM

/-- The frames a list of events sends on a port, in order. -/
def sentOn (p : Port) (es : List Config.Event) : List Frame :=
  es.filterMap fun e =>
    match p, e with
    | .f, .sendF f => some f
    | .m, .sendM f => some f
    | _, _ => none

/-- The response a call is owed, as a function of its operands alone (R20, R73, R130). -/
def callResponse : Instr → Frame
  | .encode n => response .ok (encodeSeal n)
  | .decode b => decodeResponse b
  | .checksum h n => response .ok (workBytes (checksum h n))
  | .t2t d => response .ok (workBytes (targetToThreshold d))
  | .getdiff => response .ok (difficultyBytes currentDifficulty)
  | .verify h b d => response .ok [boolByte (verify h b d)]
  | .mine h d r => mineResponse (mine h d r)

/-- The response a frame on a port is owed: that of the call it is, or the frame error (R73, R76). -/
def answer (p : Port) (f : Frame) : Frame :=
  match decodeRequest p f with
  | .request i => callResponse i
  | .error e => response (errorStatus e) []

/-- Every candidate of offset below `n` in the window of round `r` fails (R26, R132). -/
def FailsBelow (h : PreHash) (t : Work) (r : Round) (n : Nat) : Prop :=
  ∀ j, j < n → passes h (candidateAt r j) t = false

/-- The invariant of the miner's latches: their lengths (R23, R27), and what R26 and R27 say of them while
a call is in progress. -/
structure Inv (s : State) : Prop where
  /-- MH is `HL` bytes (R23). -/
  mhLength : s.mh.length = Config.HL
  /-- MSEAL is `NB` bytes (R27). -/
  msealLength : s.mseal.length = Config.NB
  /-- Searching: every candidate of smaller offset has failed (R26). -/
  searching : s.mstate = .searching → FailsBelow s.mh s.mt s.mr s.midx.toNat
  /-- Found: MSEAL is the first passing candidate, encoded (R27). -/
  found : s.mstate = .found →
    FailsBelow s.mh s.mt s.mr s.midx.toNat ∧ passes s.mh (candidate s) s.mt = true ∧
      s.mseal = encodeSeal (candidate s)
  /-- Exhausted: the whole window has failed (R134). -/
  exhausted : s.mstate = .exhausted → FailsBelow s.mh s.mt s.mr Config.WSIZE

/-- The two states differ at most in latches that mean nothing in their common MSTATE (R35). -/
structure SameMeaning (s t : State) : Prop where
  /-- MSTATE is the same. -/
  mstate : s.mstate = t.mstate
  /-- In Searching, MH, MT, MR and MIDX mean something. -/
  searching : s.mstate = .searching → s.mh = t.mh ∧ s.mt = t.mt ∧ s.mr = t.mr ∧ s.midx = t.midx
  /-- In Found, MSEAL means something. -/
  found : s.mstate = .found → s.mseal = t.mseal
  /-- In Exhausted, MR means something. -/
  exhausted : s.mstate = .exhausted → s.mr = t.mr
  /-- Both ports' channels are the same. -/
  channels : s.reqF = t.reqF ∧ s.reqM = t.reqM ∧ s.rspF = t.rspF ∧ s.rspM = t.rspM
  /-- What is to come is the same. -/
  schedule : s.inputs = t.inputs ∧ s.drawn = t.drawn ∧ s.waited = t.waited

/-- The two states have the same six architectural elements (R21). -/
def SameElements (s t : State) : Prop :=
  s.mstate = t.mstate ∧ s.mh = t.mh ∧ s.mt = t.mt ∧ s.mr = t.mr ∧ s.midx = t.midx ∧ s.mseal = t.mseal

/-- The opcodes a port accepts, in the numbers of R161: 0x01 to 0x06 on port F, 0x07 on port M (R70). -/
def PortAccepts (p : Port) (op : Byte) : Prop :=
  match p with
  | .f => 1 ≤ op.toNat ∧ op.toNat ≤ 6
  | .m => op.toNat = 7

/-- The frame lengths an opcode allows, in the numbers of R162 (R60). -/
def LegalLength (op : Byte) (len : Nat) : Prop :=
  (op.toNat = 1 ∧ len = 33) ∨ (op.toNat = 2 ∧ 1 ≤ len) ∨ (op.toNat = 3 ∧ len = 65) ∨
    (op.toNat = 4 ∧ len = 33) ∨ (op.toNat = 5 ∧ len = 1) ∨ (op.toNat = 6 ∧ 65 ≤ len) ∨
    (op.toNat = 7 ∧ len = 93)

/-- The plain byte sum S of R104, in unbounded integers. -/
def byteSum (b : List Byte) : Nat := (b.map BitVec.toNat).sum

end Sys2Proof.Machine
end

