-- ==== Sys2Proof/Certificates/Slice0/Obligations.lean ====
section
/-! DEFINITION. The statements for the provers. Each docstring names the rules of spec/ it comes from. -/

open Sys2Proof Sys2Proof.Machine

/-! ### Byte order, decoding and encoding -/

/-- R19 (which the spec marks as general knowledge: log entry 16): `le_N(v)` has N bytes, byte i being
bits[8i+7:8i] of v; `from_le(B)` = Σ B[i] × 2^(8i); each undoes the other. -/
def Obligations.LittleEndianBytesRoundTrip : Prop :=
  (∀ n v : Nat, (leBytes n v).length = n) ∧
  (∀ n v i : Nat, i < n → (leBytes n v)[i]? = some (BitVec.ofNat 8 (v / 2 ^ (8 * i)))) ∧
  (∀ b : List Byte, fromLE b = ∑ i ∈ Finset.range b.length, (b.getD i 0#8).toNat * 2 ^ (8 * i)) ∧
  (∀ n v : Nat, v < 2 ^ (8 * n) → fromLE (leBytes n v) = v) ∧
  (∀ b : List Byte, leBytes b.length (fromLE b) = b)

/-- R60 to R69, R72, R76: the frame of every well-formed request decodes, on its port, to that request. -/
def Obligations.DecodeUndoesEncode : Prop :=
  ∀ i : Instr, i.wf = true → decodeRequest i.port (encodeRequest i) = .request i

/-- R60, R72, R75, R76: a frame that decodes to a request is that request's one encoding, the request is
well-formed and the port is its port: no bit of a frame is dropped. -/
def Obligations.EachFrameHasOneMeaning : Prop :=
  ∀ (p : Port) (f : Frame) (i : Instr),
    decodeRequest p f = .request i → i.wf = true ∧ i.port = p ∧ encodeRequest i = f

/-- R76: the decoder's answer, in order: an empty frame, then the opcode, then the length, then a request
whose opcode is byte 0. -/
def Obligations.DecodingChecksEmptyThenOpcodeThenLength : Prop :=
  (∀ p : Port, decodeRequest p [] = .error .badLength) ∧
  (∀ (p : Port) (op : Byte) (rest : List Byte),
    (¬ PortAccepts p op → decodeRequest p (op :: rest) = .error .illegalOpcode) ∧
    (PortAccepts p op → ¬ LegalLength op (rest.length + 1) →
      decodeRequest p (op :: rest) = .error .badLength) ∧
    (PortAccepts p op → LegalLength op (rest.length + 1) →
      ∃ i : Instr, decodeRequest p (op :: rest) = .request i ∧ i.opcode = op))

/-- R62 to R69: frames written out byte by byte decode to the requests they stand for. -/
def Obligations.WrittenFramesDecodeAsWritten : Prop :=
  decodeRequest .f (0x01#8 :: 0x02#8 :: 0x01#8 :: List.replicate 30 0#8) = .request (.encode 0x0102#256) ∧
  decodeRequest .f [0x02#8, 0x02#8, 0x01#8] = .request (.decode [0x02#8, 0x01#8]) ∧
  decodeRequest .f (0x03#8 :: List.replicate 32 0xFF#8 ++ (0x80#8 :: List.replicate 31 0#8)) =
    .request (.checksum (List.replicate 32 0xFF#8) 0x80#256) ∧
  decodeRequest .f (0x04#8 :: [0x00#8, 0xCA#8, 0x9A#8, 0x3B#8] ++ List.replicate 28 0#8) =
    .request (.t2t 1000000000#256) ∧
  decodeRequest .f [0x05#8] = .request .getdiff ∧
  decodeRequest .f (0x06#8 :: List.replicate 32 0x11#8 ++ (0xF0#8 :: 0x01#8 :: List.replicate 30 0#8) ++ [0x55#8]) =
    .request (.verify (List.replicate 32 0x11#8) [0x55#8] 496#256) ∧
  decodeRequest .m (0x07#8 :: List.replicate 32 0x11#8 ++ (0xF0#8 :: 0x01#8 :: List.replicate 30 0#8) ++
      (0x05#8 :: List.replicate 27 0#8)) =
    .request (.mine (List.replicate 32 0x11#8) 496#256 5#224)

/-- R59 ("[derived: from rule R16, rule R91 and rule R120]"): a DECODE or VERIFY frame cut so that its seal
is still longer than NB bytes is answered as the whole frame is: status 0x01 for DECODE, payload 0x00 for
VERIFY. -/
def Obligations.TruncatedSealIsAnsweredAlike : Prop :=
  (∀ (b : Seal) (k : Nat), 32 < b.length → 32 < k →
    answer .f (0x02#8 :: b.take k) = [0x01#8] ∧ answer .f (0x02#8 :: b) = [0x01#8]) ∧
  (∀ (h : PreHash) (d : Difficulty) (b : Seal) (k : Nat), h.length = 32 → 32 < b.length → 32 < k →
    answer .f (encodeRequest (.verify h (b.take k) d)) = [0x00#8, 0x00#8] ∧
    answer .f (encodeRequest (.verify h b d)) = [0x00#8, 0x00#8])

/-- R80: a well-formed request written as its mnemonic and its operands in the document's order is read back
as that request. -/
def Obligations.WrittenRequestIsReadBack : Prop :=
  ∀ i : Instr, i.wf = true → assemble (mnemonicOf i) (asmOperandsOf i) = some i

/-! ### Work function, converter, policy, codec -/

/-- R101: the accumulator step is addition mod 2^64 of an unsigned byte, with the rule's four examples. -/
def Obligations.AccumulatorStepWrapsAround : Prop :=
  (∀ (acc : Work) (b : Byte),
    (accStep acc b).toNat = (acc.toNat + b.toNat) % 2 ^ 64 ∧
    (2 ^ 64 ≤ acc.toNat + b.toNat → (accStep acc b).toNat = acc.toNat + b.toNat - 2 ^ 64)) ∧
  accStep 0xFFFFFFFFFFFFFFFF#64 0x01#8 = 0#64 ∧
  accStep 0xFFFFFFFFFFFFFF01#64 0xFF#8 = 0#64 ∧
  accStep 0xFFFFFFFFFFFFFF00#64 0xFF#8 = 0xFFFFFFFFFFFFFFFF#64 ∧
  accStep 0xFFFFFFFFFFFFFFFF#64 0xFF#8 = 0xFE#64

/-- R104 ("[derived: from rule R100 and commutativity and associativity of addition mod 2^64]"): the work
value is the plain byte sum of the pre-hash and of the nonce, mod 2^64; so it does not depend on the order
of the bytes. -/
def Obligations.ChecksumIsTheByteSum : Prop :=
  (∀ (h : PreHash) (n : Nonce),
    (checksum h n).toNat = (byteSum h + byteSum (leBytes 32 n.toNat)) % 2 ^ 64) ∧
  (∀ (h h' : PreHash) (n n' : Nonce),
    (h ++ leBytes 32 n.toNat).Perm (h' ++ leBytes 32 n'.toNat) → checksum h n = checksum h' n')

/-- R105 ("[derived: from rule R100, rule R9 and rule R10]"): at CORE's parameters no sum wraps, and 16320
is reached only by all-ones operands. -/
def Obligations.ChecksumNeverWrapsAtThirtyTwoBytes : Prop :=
  ∀ (h : PreHash) (n : Nonce), h.length = 32 →
    (checksum h n).toNat = byteSum h + byteSum (leBytes 32 n.toNat) ∧
    (checksum h n).toNat ≤ 16320 ∧
    ((checksum h n).toNat = 16320 ↔ h = List.replicate 32 0xFF#8 ∧ n = BitVec.allOnes 256)

/-- R110: the converter clamps: min(d, 2^64 − 1), the low 64 bits where no higher bit is 1, else all ones.
-/
def Obligations.ThresholdIsASaturatingClamp : Prop :=
  ∀ d : Difficulty,
    (targetToThreshold d).toNat = min d.toNat (2 ^ 64 - 1) ∧
    targetToThreshold d =
      (if d.extractLsb' 64 192 = 0#192 then d.extractLsb' 0 64 else BitVec.allOnes 64)

/-- R113 ("[derived: from rule R110]"): the converter is monotone, the identity up to 2^64 − 1, constant
from there on, and idempotent through zero extension. -/
def Obligations.ThresholdLawsHold : Prop :=
  (∀ d e : Difficulty, d.toNat ≤ e.toNat → (targetToThreshold d).toNat ≤ (targetToThreshold e).toNat) ∧
  (∀ d : Difficulty, d.toNat ≤ 2 ^ 64 - 1 → (targetToThreshold d).toNat = d.toNat) ∧
  (∀ d : Difficulty, 2 ^ 64 - 1 ≤ d.toNat → (targetToThreshold d).toNat = 2 ^ 64 - 1) ∧
  (∀ d : Difficulty, targetToThreshold ((targetToThreshold d).setWidth 256) = targetToThreshold d)

/-- R115: the policy's difficulty is floor((2^64 − 1) / 1024) = 2^54 − 1, bits[53:0] ones and the rest
zeros. -/
def Obligations.PolicyIsTheConstant : Prop :=
  currentDifficulty.toNat = (2 ^ 64 - 1) / 1024 ∧ currentDifficulty.toNat = 2 ^ 54 - 1 ∧
  currentDifficulty.toNat = 18014398509481983 ∧
  currentDifficulty.extractLsb' 0 54 = BitVec.allOnes 54 ∧ currentDifficulty.extractLsb' 54 202 = 0#202

/-- R118 ("[derived: from rule R105, rule R110 and rule R115]"): the policy's difficulty is its own
threshold; under it every seal of 32 bytes verifies and every window's first candidate is found. -/
def Obligations.UnderThePolicyEveryNoncePasses : Prop :=
  (targetToThreshold currentDifficulty).toNat = currentDifficulty.toNat ∧
  (∀ (h : PreHash) (b : Seal), h.length = 32 → b.length = 32 → verify h b currentDifficulty = true) ∧
  (∀ (h : PreHash) (r : Round), h.length = 32 →
    mine h currentDifficulty r = .found (encodeSeal (candidateAt r 0)))

/-- R94 (its converse is "[derived: the converse, from rule R19]"): a nonce's seal decodes to it, and a seal
that decodes has exactly one spelling. -/
def Obligations.SealRoundTripIsLossless : Prop :=
  (∀ n : Nonce, decodeSeal (encodeSeal n) = some n) ∧
  (∀ b : Seal, b.length = 32 → encodeSeal (BitVec.ofNat 256 (fromLE b)) = b) ∧
  (∀ (b : Seal) (n : Nonce), decodeSeal b = some n → b = encodeSeal n)

/-- R91: decoding answers the number the 32 bytes spell, and none for every other length. -/
def Obligations.SealLengthIsTheOnlyTest : Prop :=
  ∀ b : Seal,
    (b.length = 32 → ∃ n : Nonce, decodeSeal b = some n ∧ n.toNat = fromLE b) ∧
    (b.length ≠ 32 → decodeSeal b = none)

/-! ### Verifier and miner, as functions -/

/-- R120, R122: a seal is accepted exactly when it decodes and its work is strictly below the clamped
difficulty. -/
def Obligations.VerifyIsAStrictComparison : Prop :=
  ∀ (h : PreHash) (b : Seal) (d : Difficulty),
    verify h b d = true ↔
      ∃ n : Nonce, decodeSeal b = some n ∧ (checksum h n).toNat < min d.toNat (2 ^ 64 - 1)

/-- R125 ("[derived: (b) and (c), from rule R104, rule R105, rule R110 and rule R120]"): difficulty 0
rejects every seal; from 2^64 − 1 on every 32-byte seal is accepted; in between the byte sums decide. -/
def Obligations.VerifyConsequences : Prop :=
  (∀ (h : PreHash) (b : Seal), verify h b 0#256 = false) ∧
  (∀ d : Difficulty, targetToThreshold d = 0#64 ↔ d = 0#256) ∧
  (∀ (h : PreHash) (b : Seal) (d : Difficulty), 2 ^ 64 - 1 ≤ d.toNat →
    (targetToThreshold d).toNat = 2 ^ 64 - 1 ∧
    (verify h b d = true ↔ ∃ n : Nonce, decodeSeal b = some n ∧ (checksum h n).toNat ≠ 2 ^ 64 - 1) ∧
    (h.length = 32 → b.length = 32 → verify h b d = true)) ∧
  (∀ (h : PreHash) (b : Seal) (d : Difficulty), h.length = 32 → b.length = 32 →
    (verify h b d = true ↔ byteSum h + byteSum b < min d.toNat (2 ^ 64 - 1)))

/-- R130, R132: `mine` answers the first passing candidate of the window, or Exhausted when all 2^20 fail.
-/
def Obligations.MineReturnsTheFirstPassingCandidate : Prop :=
  ∀ (h : PreHash) (d : Difficulty) (r : Round),
    (∀ b : Seal, mine h d r = .found b ↔
      ∃ i : Nat, i < 2 ^ 20 ∧ b = encodeSeal (candidateAt r i) ∧
        (checksum h (candidateAt r i)).toNat < min d.toNat (2 ^ 64 - 1) ∧
        ∀ j : Nat, j < i → min d.toNat (2 ^ 64 - 1) ≤ (checksum h (candidateAt r j)).toNat) ∧
    (∀ r' : Round, mine h d r = .exhausted r' ↔
      r' = r ∧ ∀ j : Nat, j < 2 ^ 20 → min d.toNat (2 ^ 64 - 1) ≤ (checksum h (candidateAt r j)).toNat)

/-- R141: a seal that `mine` finds is one that `verify` accepts. -/
def Obligations.MinedSealVerifies : Prop :=
  ∀ (h : PreHash) (d : Difficulty) (r : Round) (b : Seal),
    mine h d r = .found b → verify h b d = true

/-- R142: windows of different rounds are disjoint, bits[255:32] of a member are the round, 4293918720
nonces lie between a window and the next, and a nonce is in some window exactly when its bits[31:20] are
zero. -/
def Obligations.WindowsAreDisjointWithGaps : Prop :=
  (∀ (r r' : Round) (i j : Nat), r ≠ r' → i < 2 ^ 20 → j < 2 ^ 20 → candidateAt r i ≠ candidateAt r' j) ∧
  (∀ (r : Round) (i : Nat), i < 2 ^ 20 → (candidateAt r i).extractLsb' 32 224 = r) ∧
  (∀ r r' : Round, r'.toNat = r.toNat + 1 →
    (candidateAt r' 0).toNat = (candidateAt r (2 ^ 20 - 1)).toNat + 1 + 4293918720) ∧
  (∀ n : Nonce, (∃ (r : Round) (i : Nat), i < 2 ^ 20 ∧ candidateAt r i = n) ↔ n.extractLsb' 20 12 = 0#12)

/-- R28 ("[derived: from rule R13, rule R14, rule R25 and rule R26]"), R131: MCAND never overflows the
nonce; its bits are MR, twelve zeros and MIDX. -/
def Obligations.CandidateIsRoundThenIndex : Prop :=
  ∀ s : State,
    (candidate s).toNat = s.mr.toNat * 2 ^ 32 + s.midx.toNat ∧
    (candidate s).extractLsb' 32 224 = s.mr ∧ (candidate s).extractLsb' 20 12 = 0#12 ∧
    (candidate s).extractLsb' 0 20 = s.midx

/-- R143 ("[derived: from rule R104, rule R105, rule R110 and rule R130]"): at CORE's parameters the first
candidate has the least work, so a call either succeeds at its first candidate or is exhausted; and if round
0 is exhausted every round is. -/
def Obligations.MineHasAClosedForm : Prop :=
  (∀ (h : PreHash) (d : Difficulty) (r : Round), h.length = 32 →
    mine h d r =
      if byteSum h + byteSum (leBytes 28 r.toNat) < min d.toNat (2 ^ 64 - 1) then
        .found (encodeSeal (candidateAt r 0))
      else .exhausted r) ∧
  (∀ (h : PreHash) (d : Difficulty) (r : Round), h.length = 32 →
    mine h d 0#224 = .exhausted 0#224 → mine h d r = .exhausted r)

/-! ### What each operation does: its next state, and so its frame -/

/-- R92: ENCODE emits `00 ++ le_32(n)` on port F and changes nothing else. -/
def Obligations.EncodeAnswersTheSeal : Prop :=
  (∀ (n : Nonce) (s : State),
    exec (.encode n) s = .next { s with rspF := s.rspF ++ [0x00#8 :: leBytes 32 n.toNat] } ∧
    decodeRequest .f (0x01#8 :: leBytes 32 n.toNat) = .request (.encode n)) ∧
  (∀ rest : List Byte, rest.length ≠ 32 → decodeRequest .f (0x01#8 :: rest) = .error .badLength) ∧
  leBytes 32 (0#256).toNat = List.replicate 32 0#8 ∧
  leBytes 32 (BitVec.allOnes 256).toNat = List.replicate 32 0xFF#8 ∧
  leBytes 32 (1#256).toNat = 0x01#8 :: List.replicate 31 0#8

/-- R93: DECODE emits `00 ++ le_32(nonce)` for a 32-byte seal and `01` for every other length, on port F,
and changes nothing else; a DECODE frame of any length is well formed. -/
def Obligations.DecodeAnswersTheNonceOrNone : Prop :=
  ∀ (b : Seal) (s : State),
    (b.length = 32 →
      exec (.decode b) s = .next { s with rspF := s.rspF ++ [0x00#8 :: leBytes 32 (fromLE b)] }) ∧
    (b.length ≠ 32 → exec (.decode b) s = .next { s with rspF := s.rspF ++ [[0x01#8]] }) ∧
    decodeRequest .f (0x02#8 :: b) = .request (.decode b)

/-- R103: CHECKSUM emits `00 ++ le_8(work)` on port F and changes nothing else; with the rule's corner
cases. -/
def Obligations.ChecksumAnswersTheWork : Prop :=
  (∀ (h : PreHash) (n : Nonce) (s : State),
    exec (.checksum h n) s = .next { s with rspF := s.rspF ++ [0x00#8 :: leBytes 8 (checksum h n).toNat] } ∧
    (h.length = 32 → decodeRequest .f (0x03#8 :: h ++ leBytes 32 n.toNat) = .request (.checksum h n))) ∧
  (∀ rest : List Byte, rest.length ≠ 64 → decodeRequest .f (0x03#8 :: rest) = .error .badLength) ∧
  (checksum (List.replicate 32 0#8) 0#256).toNat = 0 ∧
  (checksum (List.replicate 32 0xFF#8) (BitVec.allOnes 256)).toNat = 16320 ∧
  (∀ h : PreHash, checksum h (BitVec.ofNat 256 (2 ^ 255)) = checksum h 0#256 + 128#64) ∧
  (∀ (h : PreHash) (n m : Nonce), (leBytes 32 n.toNat).Perm (leBytes 32 m.toNat) → checksum h n = checksum h m)

/-- R111: T2T emits `00 ++ le_8(min(d, 2^64 − 1))` on port F and changes nothing else. -/
def Obligations.ThresholdOperationAnswersTheClamp : Prop :=
  (∀ (d : Difficulty) (s : State),
    exec (.t2t d) s = .next { s with rspF := s.rspF ++ [0x00#8 :: leBytes 8 (min d.toNat (2 ^ 64 - 1))] } ∧
    decodeRequest .f (0x04#8 :: leBytes 32 d.toNat) = .request (.t2t d)) ∧
  (∀ rest : List Byte, rest.length ≠ 32 → decodeRequest .f (0x04#8 :: rest) = .error .badLength)

/-- R116: GETDIFF emits `00 ++ le_32(2^54 − 1)` on port F and changes nothing else. -/
def Obligations.GetdiffAnswersTheConstant : Prop :=
  (∀ s : State,
    exec .getdiff s = .next { s with rspF := s.rspF ++ [0x00#8 :: leBytes 32 (2 ^ 54 - 1)] }) ∧
  leBytes 32 (2 ^ 54 - 1) = List.replicate 6 0xFF#8 ++ 0x3F#8 :: List.replicate 25 0#8 ∧
  decodeRequest .f [0x05#8] = .request .getdiff ∧
  (∀ rest : List Byte, rest ≠ [] → decodeRequest .f (0x05#8 :: rest) = .error .badLength)

/-- R121: VERIFY emits `00 01` or `00 00` on port F and changes nothing else; with the rule's corner cases.
-/
def Obligations.VerifyAnswersTheBoolean : Prop :=
  (∀ (h : PreHash) (b : Seal) (d : Difficulty) (s : State),
    (verify h b d = true →
      exec (.verify h b d) s = .next { s with rspF := s.rspF ++ [[0x00#8, 0x01#8]] }) ∧
    (verify h b d = false →
      exec (.verify h b d) s = .next { s with rspF := s.rspF ++ [[0x00#8, 0x00#8]] }) ∧
    (h.length = 32 →
      decodeRequest .f (0x06#8 :: h ++ leBytes 32 d.toNat ++ b) = .request (.verify h b d)) ∧
    (b.length ≠ 32 → verify h b d = false) ∧
    (∀ n : Nonce, checksum h n = targetToThreshold d → verify h (encodeSeal n) d = false)) ∧
  (∀ rest : List Byte, rest.length < 64 → decodeRequest .f (0x06#8 :: rest) = .error .badLength) ∧
  (∀ (h : PreHash) (n : Nonce), h.length = 32 →
    verify h (encodeSeal n) (BitVec.ofNat 256 (2 ^ 64)) = true)

/-- R133, R146: MINE in Idle copies its operands into MH, MT, MR, clears MIDX and starts the search; it
emits nothing and changes nothing else. That MSEAL, which means nothing then, keeps its value is the model's
choice (log entry 5, DEDUCED): R35 leaves it at any value. -/
def Obligations.MineInIdleStartsTheSearch : Prop :=
  ∀ (h : PreHash) (d : Difficulty) (r : Round) (s : State), s.mstate = .idle →
    exec (.mine h d r) s = .next { s with
      mh := h, mt := BitVec.ofNat 64 (min d.toNat (2 ^ 64 - 1)), mr := r, midx := 0#20,
      mstate := .searching }

/-- R145: MINE while a call is in progress waits at the head of port M, unanswered, and changes nothing else
(the model's form of the wait: log entry 7). -/
def Obligations.MineWhileBusyWaits : Prop :=
  ∀ (h : PreHash) (d : Difficulty) (r : Round) (s : State), s.mstate ≠ .idle →
    exec (.mine h d r) s = .next { s with reqM := encodeRequest (.mine h d r) :: s.reqM }

/-! ### What one step does -/

/-- R49, R133 and the model's step (log entries 2 and 3: events and waiting frames are the model's form):
when FU, or an idle MU, has its turn and the oldest frame on its port decodes to a request, the step takes
the event and the frame away and is `exec` of that request. -/
def Obligations.StepRunsTheDecodedRequest : Prop :=
  (∀ (s : State) (f : Frame) (q : List Frame) (i : Instr),
    nextEvent s = .fu → s.reqF = f :: q → decodeRequest .f f = .request i →
      step s = exec i { afterEvent s with reqF := q }) ∧
  (∀ (s : State) (f : Frame) (q : List Frame) (i : Instr),
    nextEvent s = .mu → s.mstate = .idle → s.reqM = f :: q → decodeRequest .m f = .request i →
      step s = exec i { afterEvent s with reqM := q })

/-- R161, R162: an empty frame gets E2; a non-empty one with an opcode the port does not accept gets E1; an
accepted opcode with an illegal length gets E2. The response is that single byte, the frame is gone and
nothing else changes; on port M, MSTATE stays Idle. DECODE never raises BAD_LENGTH. -/
def Obligations.BadFramesAreAnsweredAndLeaveNoTrace : Prop :=
  (∀ (s : State) (q : List Frame), nextEvent s = .fu → s.reqF = [] :: q →
    step s = .next { afterEvent s with reqF := q, rspF := s.rspF ++ [[0xE2#8]] }) ∧
  (∀ (s : State) (op : Byte) (rest : List Byte) (q : List Frame),
    nextEvent s = .fu → s.reqF = (op :: rest) :: q → ¬ PortAccepts .f op →
      step s = .next { afterEvent s with reqF := q, rspF := s.rspF ++ [[0xE1#8]] }) ∧
  (∀ (s : State) (op : Byte) (rest : List Byte) (q : List Frame),
    nextEvent s = .fu → s.reqF = (op :: rest) :: q → PortAccepts .f op → ¬ LegalLength op (rest.length + 1) →
      step s = .next { afterEvent s with reqF := q, rspF := s.rspF ++ [[0xE2#8]] }) ∧
  (∀ (s : State) (q : List Frame), nextEvent s = .mu → s.mstate = .idle → s.reqM = [] :: q →
    step s = .next { afterEvent s with reqM := q, rspM := s.rspM ++ [[0xE2#8]] }) ∧
  (∀ (s : State) (op : Byte) (rest : List Byte) (q : List Frame),
    nextEvent s = .mu → s.mstate = .idle → s.reqM = (op :: rest) :: q → ¬ PortAccepts .m op →
      step s = .next { afterEvent s with reqM := q, rspM := s.rspM ++ [[0xE1#8]] }) ∧
  (∀ (s : State) (op : Byte) (rest : List Byte) (q : List Frame),
    nextEvent s = .mu → s.mstate = .idle → s.reqM = (op :: rest) :: q → PortAccepts .m op →
      ¬ LegalLength op (rest.length + 1) →
        step s = .next { afterEvent s with reqM := q, rspM := s.rspM ++ [[0xE2#8]] }) ∧
  (∀ rest : List Byte, decodeRequest .f (0x02#8 :: rest) ≠ .error .badLength)

/-- R133: step ACCEPT. A MINE frame is copied into the latches and emits nothing; any other frame is
answered with its error and MSTATE stays Idle. That MSEAL, which means nothing in Searching, keeps its value
at the acceptance of a MINE is the model's choice (log entry 5, DEDUCED): R35 leaves it at any value. -/
def Obligations.AcceptStepCopiesTheOperands : Prop :=
  ∀ (s : State) (f : Frame) (q : List Frame), nextEvent s = .mu → s.mstate = .idle → s.reqM = f :: q →
    (∀ (h : PreHash) (d : Difficulty) (r : Round), decodeRequest .m f = .request (.mine h d r) →
      step s = .next { afterEvent s with
        mh := h, mt := targetToThreshold d, mr := r, midx := 0#20, mstate := .searching, reqM := q }) ∧
    (∀ e : FrameError, decodeRequest .m f = .error e →
      step s = .next { afterEvent s with reqM := q, rspM := s.rspM ++ [[(errorStatus e).code]] }) ∧
    ((∃ (h : PreHash) (d : Difficulty) (r : Round), decodeRequest .m f = .request (.mine h d r)) ∨
      ∃ e : FrameError, decodeRequest .m f = .error e)

/-- R134: step EVALUATE evaluates exactly one candidate; it changes MSEAL and MSTATE, or MSTATE, or MIDX,
and nothing else. That the latches which mean nothing after the step (MSEAL while the search goes on; MH, MT,
MR and MIDX in Found; MH, MT, MIDX and MSEAL in Exhausted) keep their values is the model's choice (log
entry 5, DEDUCED): R35 and U8 leave them at any value. -/
def Obligations.EvaluateStepTriesOneCandidate : Prop :=
  ∀ (s : State) (c : Nonce), nextEvent s = .mu → s.mstate = .searching →
    c.toNat = s.mr.toNat * 2 ^ 32 + s.midx.toNat →
    ((checksum s.mh c).toNat < s.mt.toNat →
      step s = .next { afterEvent s with mseal := leBytes 32 c.toNat, mstate := .found }) ∧
    (s.mt.toNat ≤ (checksum s.mh c).toNat → s.midx.toNat = 2 ^ 20 - 1 →
      step s = .next { afterEvent s with mstate := .exhausted }) ∧
    (s.mt.toNat ≤ (checksum s.mh c).toNat → s.midx.toNat < 2 ^ 20 - 1 →
      ∃ i : Index, i.toNat = s.midx.toNat + 1 ∧ step s = .next { afterEvent s with midx := i })

/-- R135: step DELIVER in Found emits `00 ++ MSEAL` on port M, returns to Idle, and changes nothing else. That
MH, MT, MR, MIDX and MSEAL, which mean nothing in Idle, keep their values is the model's choice (log entry 5,
DEDUCED): R35 and U8 leave them at any value. -/
def Obligations.DeliverInFoundEmitsTheSeal : Prop :=
  ∀ s : State, nextEvent s = .takeM → s.mstate = .found →
    step s = .next { afterEvent s with rspM := s.rspM ++ [0x00#8 :: s.mseal], mstate := .idle }

/-- R136: step DELIVER in Exhausted emits `02 ++ le_28(MR)` on port M, returns to Idle, and changes nothing
else. That MH, MT, MR, MIDX and MSEAL, which mean nothing in Idle, keep their values is the model's choice
(log entry 5, DEDUCED): R35 and U8 leave them at any value. -/
def Obligations.DeliverInExhaustedEmitsTheRound : Prop :=
  ∀ s : State, nextEvent s = .takeM → s.mstate = .exhausted →
    step s = .next { afterEvent s with
      rspM := s.rspM ++ [0x02#8 :: leBytes 28 s.mr.toNat], mstate := .idle }

/-- R144: the transitions, complete: every step either leaves the six elements as they are (answering on
port M only a malformed frame, in Idle) or is one of the table's rows, with its condition and its output. -/
def Obligations.TransitionsAreComplete : Prop :=
  ∀ s t : State, step s = .next t →
    (SameElements s t ∧
      (t.rspM = s.rspM ∨
        (s.mstate = .idle ∧ nextEvent s = .mu ∧
          ∃ (f : Frame) (q : List Frame) (e : FrameError), s.reqM = f :: q ∧
            decodeRequest .m f = .error e ∧ t.rspM = s.rspM ++ [[(errorStatus e).code]]))) ∨
    (s.mstate = .idle ∧ nextEvent s = .mu ∧ t.mstate = .searching ∧ t.rspM = s.rspM ∧ t.midx = 0#20 ∧
      ∃ (f : Frame) (q : List Frame) (h : PreHash) (d : Difficulty), s.reqM = f :: q ∧
        decodeRequest .m f = .request (.mine h d t.mr) ∧ t.mh = h ∧ t.mt = targetToThreshold d) ∨
    (s.mstate = .searching ∧ nextEvent s = .mu ∧ t.mstate = .found ∧ t.rspM = s.rspM ∧
      passes s.mh (candidate s) s.mt = true ∧ t.mseal = encodeSeal (candidate s)) ∨
    (s.mstate = .searching ∧ nextEvent s = .mu ∧ t.mstate = .searching ∧ t.rspM = s.rspM ∧ t.mr = s.mr ∧
      passes s.mh (candidate s) s.mt = false ∧ s.midx.toNat < 2 ^ 20 - 1 ∧
      t.midx.toNat = s.midx.toNat + 1) ∨
    (s.mstate = .searching ∧ nextEvent s = .mu ∧ t.mstate = .exhausted ∧ t.rspM = s.rspM ∧ t.mr = s.mr ∧
      passes s.mh (candidate s) s.mt = false ∧ s.midx.toNat = 2 ^ 20 - 1) ∨
    (s.mstate = .found ∧ nextEvent s = .takeM ∧ t.mstate = .idle ∧
      t.rspM = s.rspM ++ [0x00#8 :: s.mseal]) ∨
    (s.mstate = .exhausted ∧ nextEvent s = .takeM ∧ t.mstate = .idle ∧
      t.rspM = s.rspM ++ [0x02#8 :: leBytes 28 s.mr.toNat]) ∨
    (nextEvent s = .reset ∧ t.mstate = .idle ∧ t.rspM = s.rspM)

/-- R145, in the model's form (log entries 2 and 3): while a call is in progress port M takes no request,
whatever happens but a reset: the waiting frames stay, unexamined, and all that port M can emit is the
pending response. -/
def Obligations.PortMTakesNoRequestWhileBusy : Prop :=
  ∀ s t : State, s.mstate ≠ .idle → nextEvent s ≠ .reset → step s = .next t →
    t.reqM = s.reqM ++ sentOn .m [nextEvent s] ∧
    (t.rspM = s.rspM ∨
      ∃ f : Frame, pendingResponse s = some f ∧ nextEvent s = .takeM ∧ t.mstate = .idle ∧
        t.rspM = s.rspM ++ [f])

/-- R140, in the model's form (log entry 2): no request on either port, and no attempt to take a response
that is not there, stops or alters a call in progress. -/
def Obligations.NoRequestStopsACall : Prop :=
  ∀ s t : State, s.mstate ≠ .idle → step s = .next t →
    ((∃ f : Frame, nextEvent s = .sendF f) ∨ (∃ f : Frame, nextEvent s = .sendM f) ∨ nextEvent s = .fu ∨
      (nextEvent s = .takeM ∧ s.mstate = .searching)) →
    SameElements s t

/-- R52 ("[derived: from rule R21, rule R39 and rule R49]"): a port F response is the same whatever the
miner's elements and port M hold, and FU writes none of them; the host's and MU's steps on port M do not
touch port F. -/
def Obligations.PortsAreIndependent : Prop :=
  (∀ s s' t t' : State, nextEvent s = .fu → nextEvent s' = .fu → s.reqF = s'.reqF →
    step s = .next t → step s' = .next t' →
      ∃ answers : List Frame, t.rspF = s.rspF ++ answers ∧ t'.rspF = s'.rspF ++ answers ∧
        t.reqF = t'.reqF) ∧
  (∀ s t : State, nextEvent s = .fu → step s = .next t →
    SameElements s t ∧ t.reqM = s.reqM ∧ t.rspM = s.rspM) ∧
  (∀ s t : State, (nextEvent s = .mu ∨ nextEvent s = .takeM ∨ ∃ f : Frame, nextEvent s = .sendM f) →
    step s = .next t → t.reqF = s.reqF ∧ t.rspF = s.rspF)

/-- R51, R58, in the model's form (log entry 3: a channel is a list, oldest first): a frame the host sends
waits behind the frames sent before it on the same port; nothing else changes. -/
def Obligations.SentFramesQueueInOrder : Prop :=
  (∀ (s : State) (f : Frame), nextEvent s = .sendF f →
    step s = .next { afterEvent s with reqF := s.reqF ++ [f] }) ∧
  (∀ (s : State) (f : Frame), nextEvent s = .sendM f →
    step s = .next { afterEvent s with reqM := s.reqM ++ [f] })

/-- R175, R135, R136, in the model's form (log entry 12): an agent that has no enabled step, and a host that
takes a response that is not there, change nothing. -/
def Obligations.AgentsWithoutAStepChangeNothing : Prop :=
  ∀ s : State,
    (nextEvent s = .fu ∧ s.reqF = []) ∨ (nextEvent s = .mu ∧ s.mstate = .idle ∧ s.reqM = []) ∨
      (nextEvent s = .mu ∧ (s.mstate = .found ∨ s.mstate = .exhausted)) ∨
      (nextEvent s = .takeM ∧ (s.mstate = .idle ∨ s.mstate = .searching)) →
    step s = .next (afterEvent s)

/-- R180, R181, in the model's form (log entries 3 and 4): a reset event sets MSTATE to Idle, discards the
frames waiting on either port and emits nothing, from every state. What the five latches then hold is not
stated, but for their lengths. -/
def Obligations.ResetEventAbandonsTheCall : Prop :=
  ∀ s : State, nextEvent s = .reset →
    ∃ t : State, step s = .next t ∧ t.mstate = .idle ∧ t.reqF = [] ∧ t.reqM = [] ∧
      t.rspF = s.rspF ∧ t.rspM = s.rspM ∧ t.mh.length = 32 ∧ t.mseal.length = 32 ∧
      pendingResponse t = none

/-- R36, R181, R183: after reset MSTATE is Idle and no frame stands on any channel (that the response
channels are empty is the model's choice, log entry 3). Nothing is stated of the five latches, whose values
are log entry 1's. -/
def Obligations.ResetStateIsIdleAndEmpty : Prop :=
  State.reset.mstate = .idle ∧ State.reset.reqF = [] ∧ State.reset.reqM = [] ∧
  State.reset.rspF = [] ∧ State.reset.rspM = [] ∧ pendingResponse State.reset = none

/-! ### Whole-machine statements -/

/-- R23, R26, R27: the invariant of the miner's latches holds right after reset; the lengths rest on the
model's reset values (log entry 1), the rest on MSTATE being Idle. -/
def Obligations.LatchInvariantHoldsAtReset : Prop := Inv State.reset

/-- R23, R26, R27 (in Found and Exhausted it also speaks of latches that keep their values, log entry 5):
every step keeps the invariant of the miner's latches, from every state that has it. -/
def Obligations.EveryStepKeepsTheLatchInvariant : Prop :=
  ∀ s t : State, Inv s → step s = .next t → Inv t

/-- R35, R36, R37: two states that differ only in latches that mean nothing stay so, step by step; so no
rule reads such a latch and no response shows it. -/
def Obligations.LatchesThatMeanNothingAreNeverRead : Prop :=
  ∀ s t s' : State, SameMeaning s t → step s = .next s' →
    ∃ t' : State, step t = .next t' ∧ SameMeaning s' t'

/-- R166 and the opening of 60_exceptions.md: no operation and no step faults or is refused. -/
def Obligations.NothingEverStops : Prop :=
  (∀ (i : Instr) (s : State), goesOn (exec i s)) ∧ (∀ s : State, goesOn (step s)) ∧
  (∀ (k : Nat) (s : State), goesOn (run k s))

/-- R61, R71, in the model's form (log entry 3): a step emits at most one response, on at most one port, and
only the five statuses; an error and NONE have no result field, and EXHAUSTED has the 28 bytes of a round.
-/
def Obligations.OnlyTheFiveStatusesAreEmitted : Prop :=
  ∀ s t : State, step s = .next t →
    (t.rspF = s.rspF ∧ t.rspM = s.rspM) ∨
    (t.rspM = s.rspM ∧ ∃ f : Frame, t.rspF = s.rspF ++ [f] ∧
      (f = [0x01#8] ∨ f = [0xE1#8] ∨ f = [0xE2#8] ∨ ∃ results : List Byte, f = 0x00#8 :: results)) ∨
    (t.rspF = s.rspF ∧ ∃ f : Frame, t.rspM = s.rspM ++ [f] ∧
      (f = [0xE1#8] ∨ f = [0xE2#8] ∨ (∃ results : List Byte, f = 0x00#8 :: results) ∨
        ∃ results : List Byte, results.length = 28 ∧ f = 0x02#8 :: results))

/-- R73: the response table, complete: what each request, and each frame that is none, is owed, and how long
that response is. -/
def Obligations.ResponsesFollowTheTable : Prop :=
  ∀ (p : Port) (f : Frame),
    (∀ n, decodeRequest p f = .request (.encode n) →
      answer p f = 0x00#8 :: leBytes 32 n.toNat ∧ (answer p f).length = 33) ∧
    (∀ b, decodeRequest p f = .request (.decode b) →
      (b.length = 32 → answer p f = 0x00#8 :: leBytes 32 (fromLE b) ∧ (answer p f).length = 33) ∧
      (b.length ≠ 32 → answer p f = [0x01#8])) ∧
    (∀ h n, decodeRequest p f = .request (.checksum h n) →
      answer p f = 0x00#8 :: leBytes 8 (checksum h n).toNat ∧ (answer p f).length = 9) ∧
    (∀ d, decodeRequest p f = .request (.t2t d) →
      answer p f = 0x00#8 :: leBytes 8 (targetToThreshold d).toNat ∧ (answer p f).length = 9) ∧
    (decodeRequest p f = .request .getdiff →
      answer p f = 0x00#8 :: leBytes 32 currentDifficulty.toNat ∧ (answer p f).length = 33) ∧
    (∀ h b d, decodeRequest p f = .request (.verify h b d) →
      answer p f = [0x00#8, if verify h b d then 0x01#8 else 0x00#8]) ∧
    (∀ h d r, decodeRequest p f = .request (.mine h d r) →
      (∀ b, mine h d r = .found b → answer p f = 0x00#8 :: b ∧ (answer p f).length = 33) ∧
      (∀ r', mine h d r = .exhausted r' →
        answer p f = 0x02#8 :: leBytes 28 r.toNat ∧ (answer p f).length = 29)) ∧
    (decodeRequest p f = .error .illegalOpcode → answer p f = [0xE1#8]) ∧
    (decodeRequest p f = .error .badLength → answer p f = [0xE2#8])

/-- R73, R78, in the model's form (log entry 14): a host reads the response it is owed back as the result of
the document's function, and each frame error as itself. -/
def Obligations.RepliesAreReadBack : Prop :=
  (∀ n : Nonce, readReply (.encode n) (callResponse (.encode n)) = some (.ok (.bytes (encodeSeal n)))) ∧
  (∀ b : Seal, readReply (.decode b) (callResponse (.decode b)) =
    if b.length = 32 then some (.ok (.int (fromLE b))) else some .none) ∧
  (∀ (h : PreHash) (n : Nonce), readReply (.checksum h n) (callResponse (.checksum h n)) =
    some (.ok (.int (checksum h n).toNat))) ∧
  (∀ d : Difficulty, readReply (.t2t d) (callResponse (.t2t d)) =
    some (.ok (.int (min d.toNat (2 ^ 64 - 1))))) ∧
  readReply .getdiff (callResponse .getdiff) = some (.ok (.int (2 ^ 54 - 1))) ∧
  (∀ (h : PreHash) (b : Seal) (d : Difficulty), readReply (.verify h b d) (callResponse (.verify h b d)) =
    some (.okBool (verify h b d))) ∧
  (∀ (h : PreHash) (d : Difficulty) (r : Round), readReply (.mine h d r) (callResponse (.mine h d r)) =
    match mine h d r with
    | .found b => some (.ok (.bytes b))
    | .exhausted r' => some (.exhausted r'.toNat)) ∧
  (∀ i : Instr, readReply i [0xE1#8] = some .illegalOpcode ∧ readReply i [0xE2#8] = some .badLength)

/-- R20, R49, R51, R58, in the model's form (log entries 2 and 3): over any events without a reset, from any
state, port F answers the frames sent to it one for one, in order, each with the answer its bytes alone
determine, whatever the miner does; each turn of FU answers one frame while any waits. -/
def Obligations.PortFAnswersEveryRequestInOrder : Prop :=
  ∀ (es : List Config.Event) (s : State), Config.Event.reset ∉ es →
    ∃ (t : State) (handled : List Frame),
      run es.length (withInputs es s) = .next t ∧
      s.reqF ++ sentOn .f es = handled ++ t.reqF ∧
      min s.reqF.length (es.count .fu) ≤ handled.length ∧ handled.length ≤ es.count .fu ∧
      t.rspF = s.rspF ++ handled.map (answer .f)

/-- R38, R58, R137, R139, R145, in the model's form (log entries 2 and 3): over any events without a reset,
from an idle miner, port M answers the frames sent to it one for one, in order, each with the answer its
bytes alone determine: for a MINE, that of the function `mine` of its own operands. At most one frame is in
progress, and a pending response is already its answer. -/
def Obligations.PortMAnswersEveryRequestInOrder : Prop :=
  ∀ (es : List Config.Event) (s : State), Config.Event.reset ∉ es → s.mstate = .idle →
    ∃ (t : State) (handled : List Frame),
      run es.length (withInputs es s) = .next t ∧
      t.rspM = s.rspM ++ handled.map (answer .m) ∧
      ((t.mstate = .idle ∧ s.reqM ++ sentOn .m es = handled ++ t.reqM) ∨
        (t.mstate ≠ .idle ∧ ∃ f : Frame, s.reqM ++ sentOn .m es = handled ++ f :: t.reqM ∧
          ∀ b : Frame, pendingResponse t = some b → b = answer .m f))

/-- R137 ("[derived: from rule R130, rule R133, rule R134, rule R135 and rule R136]"), in the model's form
(log entries 2 and 13): once an idle MU has accepted MINE(h, d, r), after any events without a reset and
with at least 2^20 turns for MU in which the host has not asked for the response, the host takes the
response of `mine(h, d, r)` and MU is Idle again. -/
def Obligations.AcceptedMineIsAnswered : Prop :=
  ∀ (h : PreHash) (d : Difficulty) (r : Round) (s : State) (q : List Frame) (es : List Config.Event),
    h.length = 32 → s.mstate = .idle → s.reqM = encodeRequest (.mine h d r) :: q →
    Config.Event.reset ∉ es → Config.Event.takeM ∉ es → 2 ^ 20 ≤ es.count .mu →
    ∃ t : State, run (es.length + 2) (withInputs (.mu :: (es ++ [.takeM])) s) = .next t ∧
      t.mstate = .idle ∧ t.rspM = s.rspM ++ [mineResponse (mine h d r)]

/-- R148 ("MU takes an enabled EVALUATE step eventually (weak fairness)"), in the model's form (log entries 2
and 13): from every state in which MU searches, whatever is to come, MU has its turn after finitely many
steps, on the six elements as they are, unless a reset event comes first. -/
def Obligations.EnabledEvaluateIsTakenEventually : Prop :=
  ∀ s : State, s.mstate = .searching →
    ∃ (k : Nat) (t : State), run k s = .next t ∧ SameElements s t ∧
      (nextEvent t = .mu ∨ nextEvent t = .reset)

/-- R137, R140, R148, in the model's form (log entries 2 and 13): when an idle MU accepts MINE(h, d, r),
whatever is to come, after finitely many steps the response of `mine(h, d, r)` is pending and nothing else has
been emitted on port M, unless a reset event ends the call while it searches. A pending response waits for the
host: every event but the host taking it and a reset leaves it pending. -/
def Obligations.AcceptedMineComesToItsResponse : Prop :=
  (∀ (h : PreHash) (d : Difficulty) (r : Round) (s : State) (q : List Frame),
    h.length = 32 → s.mstate = .idle → nextEvent s = .mu → s.reqM = encodeRequest (.mine h d r) :: q →
    ∃ (k : Nat) (t : State), run k s = .next t ∧ t.rspM = s.rspM ∧
      (pendingResponse t = some (mineResponse (mine h d r)) ∨
        (t.mstate = .searching ∧ nextEvent t = .reset))) ∧
  (∀ (s t : State) (f : Frame), pendingResponse s = some f → nextEvent s ≠ .takeM → nextEvent s ≠ .reset →
    step s = .next t → pendingResponse t = some f ∧ t.rspM = s.rspM)

/-- R148 ("Under these two assumptions every accepted MINE is answered"), in the model's form (log entries 2
and 13): over every schedule, however long, in which MU's EVALUATE is weakly fair and the host takes
responses, every MINE(h, d, r) that an idle MU accepts, at any time, gets the response of `mine(h, d, r)`, as
the next response on port M, and MU is Idle again, if no reset event comes after the acceptance (R140: only
reset ends a call early). -/
def Obligations.EveryMineIsAnsweredUnderFairness : Prop :=
  ∀ (σ : Nat → Config.Event) (s : State), EvaluateIsWeaklyFair σ s → HostTakesResponses σ s →
    ∀ (n : Nat) (u : State) (h : PreHash) (d : Difficulty) (r : Round) (q : List Frame),
      (∀ m, n ≤ m → σ m ≠ .reset) → h.length = 32 → runSchedule σ n s = .next u →
      u.mstate = .idle → u.reqM = encodeRequest (.mine h d r) :: q → σ n = .mu →
      ∃ (m : Nat) (t : State), n < m ∧ runSchedule σ m s = .next t ∧ t.mstate = .idle ∧
        t.rspM = u.rspM ++ [mineResponse (mine h d r)]

/-- R182, R139, in the model's form (log entries 2 and 13): a reset event in the middle of anything loses
only time: the scheduler that then sends MINE(h, d, r) gets the response of `mine(h, d, r)`, as if the
machine had never done anything else. -/
def Obligations.ResetLosesOnlyTime : Prop :=
  ∀ (h : PreHash) (d : Difficulty) (r : Round) (s : State) (es : List Config.Event),
    h.length = 32 → Config.Event.reset ∉ es → Config.Event.takeM ∉ es → 2 ^ 20 ≤ es.count .mu →
    ∃ t : State,
      run (es.length + 4)
        (withInputs (.reset :: .sendM (encodeRequest (.mine h d r)) :: .mu :: (es ++ [.takeM])) s) = .next t ∧
      t.mstate = .idle ∧ t.rspM = s.rspM ++ [mineResponse (mine h d r)]

/-- R138: a call makes at most 2^20 evaluations, and exactly 2^20 when it ends Exhausted. -/
def Obligations.CallsAreBounded : Prop :=
  ∀ (h : PreHash) (d : Difficulty) (r : Round) (s : State),
    ∃ k : Nat, 1 ≤ k ∧ k ≤ 2 ^ 20 ∧
      (∀ j : Nat, j < k → (evaluate^[j] (accept h d r s)).mstate = .searching) ∧
      ((evaluate^[k] (accept h d r s)).mstate = .found ∨
        ((evaluate^[k] (accept h d r s)).mstate = .exhausted ∧ k = 2 ^ 20))
end

