-- ==== Sys2Proof/Laws/Bytes.lean ====
section
/-! SUPPORT. Lengths and unfolding lemmas of the byte-order helpers, the field slices and the seal codec. -/

namespace Sys2Proof

@[simp] theorem leBytes_length (n v : Nat) : (leBytes n v).length = n := by
  induction n generalizing v with
  | zero => rfl
  | succ n ih => simp [leBytes, ih]

theorem leBytes_succ (n v : Nat) : leBytes (n + 1) v = BitVec.ofNat 8 v :: leBytes n (v / 256) := rfl

theorem fromLE_cons (b : Byte) (bs : List Byte) : fromLE (b :: bs) = b.toNat + 256 * fromLE bs := rfl

theorem fromLE_lt (bs : List Byte) : fromLE bs < 256 ^ bs.length := by
  induction bs with
  | nil => simp [fromLE]
  | cons b bs ih =>
    have hb := b.isLt
    simp only [fromLE_cons, List.length_cons, pow_succ]
    omega

/-- A slice that starts after a prefix is a slice of the rest. -/
theorem slice_append_right (l f : List Byte) (a b : Nat) :
    slice (l ++ f) (l.length + a) (l.length + b) = slice f a b := by
  simp [slice, List.take_append, List.drop_append]

/-- A slice that ends within a prefix is a slice of the prefix. -/
theorem slice_append_left (l f : List Byte) (a b : Nat) (h : b ≤ l.length) :
    slice (l ++ f) a b = slice l a b := by
  simp [slice, List.take_append, Nat.sub_eq_zero_of_le h]

theorem slice_length (f : Frame) (a b : Nat) (h : b ≤ f.length) : (slice f a b).length = b - a := by
  simp [slice, Nat.min_eq_left h]

/-- The opcode map, read backwards (R69, R74). -/
theorem formatOf_eq_some {op : Byte} {m : Format} (h : formatOf op = some m) :
    (op = 0x01#8 ∧ m = .N) ∨ (op = 0x02#8 ∧ m = .S) ∨ (op = 0x03#8 ∧ m = .HN) ∨ (op = 0x04#8 ∧ m = .D) ∨
      (op = 0x05#8 ∧ m = .Z) ∨ (op = 0x06#8 ∧ m = .V) ∨ (op = 0x07#8 ∧ m = .M) := by
  unfold formatOf at h
  repeat' split at h
  all_goals simp_all

/-- All that decoding can answer, in the order of R76. -/
theorem decodeRequest_cases (p : Port) (f : Frame) :
    (f = [] ∧ decodeRequest p f = .error .badLength) ∨
    (∃ op rest, f = op :: rest ∧ (formatOf op = none ∨ ∃ m, formatOf op = some m ∧ m.port ≠ p) ∧
      decodeRequest p f = .error .illegalOpcode) ∨
    (∃ op rest m, f = op :: rest ∧ formatOf op = some m ∧ m.port = p ∧ m.lengthOk f.length = false ∧
      decodeRequest p f = .error .badLength) ∨
    (∃ op rest m, f = op :: rest ∧ formatOf op = some m ∧ m.port = p ∧ m.lengthOk f.length = true ∧
      decodeRequest p f = .request (assembleOperands m f)) := by
  cases f with
  | nil => exact .inl ⟨rfl, rfl⟩
  | cons op rest =>
    refine .inr ?_
    cases hm : formatOf op with
    | none => exact .inl ⟨op, rest, rfl, .inl hm, by simp [decodeRequest, hm]⟩
    | some m =>
      by_cases hp : m.port = p
      · cases hl : m.lengthOk (op :: rest).length with
        | false => exact .inr (.inl ⟨op, rest, m, rfl, hm, hp, hl, by simp_all [decodeRequest]⟩)
        | true => exact .inr (.inr ⟨op, rest, m, rfl, hm, hp, hl, by simp_all [decodeRequest]⟩)
      · exact .inl ⟨op, rest, rfl, .inr ⟨m, hm, hp⟩, by simp [decodeRequest, hm, hp]⟩

end Sys2Proof

namespace Sys2Proof.Machine

@[simp] theorem encodeSeal_length (n : Nonce) : (encodeSeal n).length = 32 := leBytes_length _ _

/-- `decode` answers a nonce exactly when the length is NB. -/
theorem decodeSeal_cases (b : Seal) :
    (b.length = 32 ∧ decodeSeal b = some (BitVec.ofNat 256 (fromLE b))) ∨
    (b.length ≠ 32 ∧ decodeSeal b = none) := by
  by_cases h : b.length = 32
  · exact .inl ⟨h, if_pos h⟩
  · exact .inr ⟨h, if_neg h⟩

end Sys2Proof.Machine
end

