-- ==== Sys2Proof/Laws/State.lean ====
section
/-! SUPPORT. One lemma per field per update of the state, true by rfl, so that no proof unfolds an update. -/

namespace Sys2Proof.Machine

/-! ### `respond .f` -/

@[simp] theorem respond_f_mstate (b : Frame) (s : State) : (respond .f b s).mstate = s.mstate := rfl
@[simp] theorem respond_f_mh (b : Frame) (s : State) : (respond .f b s).mh = s.mh := rfl
@[simp] theorem respond_f_mt (b : Frame) (s : State) : (respond .f b s).mt = s.mt := rfl
@[simp] theorem respond_f_mr (b : Frame) (s : State) : (respond .f b s).mr = s.mr := rfl
@[simp] theorem respond_f_midx (b : Frame) (s : State) : (respond .f b s).midx = s.midx := rfl
@[simp] theorem respond_f_mseal (b : Frame) (s : State) : (respond .f b s).mseal = s.mseal := rfl
@[simp] theorem respond_f_reqF (b : Frame) (s : State) : (respond .f b s).reqF = s.reqF := rfl
@[simp] theorem respond_f_reqM (b : Frame) (s : State) : (respond .f b s).reqM = s.reqM := rfl
@[simp] theorem respond_f_rspF (b : Frame) (s : State) : (respond .f b s).rspF = s.rspF ++ [b] := rfl
@[simp] theorem respond_f_rspM (b : Frame) (s : State) : (respond .f b s).rspM = s.rspM := rfl
@[simp] theorem respond_f_inputs (b : Frame) (s : State) : (respond .f b s).inputs = s.inputs := rfl
@[simp] theorem respond_f_drawn (b : Frame) (s : State) : (respond .f b s).drawn = s.drawn := rfl
@[simp] theorem respond_f_waited (b : Frame) (s : State) : (respond .f b s).waited = s.waited := rfl

/-! ### `send .f` -/

@[simp] theorem send_f_mstate (b : Frame) (s : State) : (send .f b s).mstate = s.mstate := rfl
@[simp] theorem send_f_mh (b : Frame) (s : State) : (send .f b s).mh = s.mh := rfl
@[simp] theorem send_f_mt (b : Frame) (s : State) : (send .f b s).mt = s.mt := rfl
@[simp] theorem send_f_mr (b : Frame) (s : State) : (send .f b s).mr = s.mr := rfl
@[simp] theorem send_f_midx (b : Frame) (s : State) : (send .f b s).midx = s.midx := rfl
@[simp] theorem send_f_mseal (b : Frame) (s : State) : (send .f b s).mseal = s.mseal := rfl
@[simp] theorem send_f_reqF (b : Frame) (s : State) : (send .f b s).reqF = s.reqF ++ [b] := rfl
@[simp] theorem send_f_reqM (b : Frame) (s : State) : (send .f b s).reqM = s.reqM := rfl
@[simp] theorem send_f_rspF (b : Frame) (s : State) : (send .f b s).rspF = s.rspF := rfl
@[simp] theorem send_f_rspM (b : Frame) (s : State) : (send .f b s).rspM = s.rspM := rfl
@[simp] theorem send_f_inputs (b : Frame) (s : State) : (send .f b s).inputs = s.inputs := rfl
@[simp] theorem send_f_drawn (b : Frame) (s : State) : (send .f b s).drawn = s.drawn := rfl
@[simp] theorem send_f_waited (b : Frame) (s : State) : (send .f b s).waited = s.waited := rfl

/-! ### `setWaiting .f` -/

@[simp] theorem setWaiting_f_mstate (q : List Frame) (s : State) :
    (setWaiting .f q s).mstate = s.mstate := rfl
@[simp] theorem setWaiting_f_mh (q : List Frame) (s : State) : (setWaiting .f q s).mh = s.mh := rfl
@[simp] theorem setWaiting_f_mt (q : List Frame) (s : State) : (setWaiting .f q s).mt = s.mt := rfl
@[simp] theorem setWaiting_f_mr (q : List Frame) (s : State) : (setWaiting .f q s).mr = s.mr := rfl
@[simp] theorem setWaiting_f_midx (q : List Frame) (s : State) : (setWaiting .f q s).midx = s.midx := rfl
@[simp] theorem setWaiting_f_mseal (q : List Frame) (s : State) : (setWaiting .f q s).mseal = s.mseal := rfl
@[simp] theorem setWaiting_f_reqF (q : List Frame) (s : State) : (setWaiting .f q s).reqF = q := rfl
@[simp] theorem setWaiting_f_reqM (q : List Frame) (s : State) : (setWaiting .f q s).reqM = s.reqM := rfl
@[simp] theorem setWaiting_f_rspF (q : List Frame) (s : State) : (setWaiting .f q s).rspF = s.rspF := rfl
@[simp] theorem setWaiting_f_rspM (q : List Frame) (s : State) : (setWaiting .f q s).rspM = s.rspM := rfl
@[simp] theorem setWaiting_f_inputs (q : List Frame) (s : State) :
    (setWaiting .f q s).inputs = s.inputs := rfl
@[simp] theorem setWaiting_f_drawn (q : List Frame) (s : State) : (setWaiting .f q s).drawn = s.drawn := rfl
@[simp] theorem setWaiting_f_waited (q : List Frame) (s : State) : (setWaiting .f q s).waited = s.waited := rfl

/-! ### `respond .m` -/

@[simp] theorem respond_m_mstate (b : Frame) (s : State) : (respond .m b s).mstate = s.mstate := rfl
@[simp] theorem respond_m_mh (b : Frame) (s : State) : (respond .m b s).mh = s.mh := rfl
@[simp] theorem respond_m_mt (b : Frame) (s : State) : (respond .m b s).mt = s.mt := rfl
@[simp] theorem respond_m_mr (b : Frame) (s : State) : (respond .m b s).mr = s.mr := rfl
@[simp] theorem respond_m_midx (b : Frame) (s : State) : (respond .m b s).midx = s.midx := rfl
@[simp] theorem respond_m_mseal (b : Frame) (s : State) : (respond .m b s).mseal = s.mseal := rfl
@[simp] theorem respond_m_reqF (b : Frame) (s : State) : (respond .m b s).reqF = s.reqF := rfl
@[simp] theorem respond_m_reqM (b : Frame) (s : State) : (respond .m b s).reqM = s.reqM := rfl
@[simp] theorem respond_m_rspF (b : Frame) (s : State) : (respond .m b s).rspF = s.rspF := rfl
@[simp] theorem respond_m_rspM (b : Frame) (s : State) : (respond .m b s).rspM = s.rspM ++ [b] := rfl
@[simp] theorem respond_m_inputs (b : Frame) (s : State) : (respond .m b s).inputs = s.inputs := rfl
@[simp] theorem respond_m_drawn (b : Frame) (s : State) : (respond .m b s).drawn = s.drawn := rfl
@[simp] theorem respond_m_waited (b : Frame) (s : State) : (respond .m b s).waited = s.waited := rfl

/-! ### `send .m` -/

@[simp] theorem send_m_mstate (b : Frame) (s : State) : (send .m b s).mstate = s.mstate := rfl
@[simp] theorem send_m_mh (b : Frame) (s : State) : (send .m b s).mh = s.mh := rfl
@[simp] theorem send_m_mt (b : Frame) (s : State) : (send .m b s).mt = s.mt := rfl
@[simp] theorem send_m_mr (b : Frame) (s : State) : (send .m b s).mr = s.mr := rfl
@[simp] theorem send_m_midx (b : Frame) (s : State) : (send .m b s).midx = s.midx := rfl
@[simp] theorem send_m_mseal (b : Frame) (s : State) : (send .m b s).mseal = s.mseal := rfl
@[simp] theorem send_m_reqF (b : Frame) (s : State) : (send .m b s).reqF = s.reqF := rfl
@[simp] theorem send_m_reqM (b : Frame) (s : State) : (send .m b s).reqM = s.reqM ++ [b] := rfl
@[simp] theorem send_m_rspF (b : Frame) (s : State) : (send .m b s).rspF = s.rspF := rfl
@[simp] theorem send_m_rspM (b : Frame) (s : State) : (send .m b s).rspM = s.rspM := rfl
@[simp] theorem send_m_inputs (b : Frame) (s : State) : (send .m b s).inputs = s.inputs := rfl
@[simp] theorem send_m_drawn (b : Frame) (s : State) : (send .m b s).drawn = s.drawn := rfl
@[simp] theorem send_m_waited (b : Frame) (s : State) : (send .m b s).waited = s.waited := rfl

/-! ### `setWaiting .m` -/

@[simp] theorem setWaiting_m_mstate (q : List Frame) (s : State) :
    (setWaiting .m q s).mstate = s.mstate := rfl
@[simp] theorem setWaiting_m_mh (q : List Frame) (s : State) : (setWaiting .m q s).mh = s.mh := rfl
@[simp] theorem setWaiting_m_mt (q : List Frame) (s : State) : (setWaiting .m q s).mt = s.mt := rfl
@[simp] theorem setWaiting_m_mr (q : List Frame) (s : State) : (setWaiting .m q s).mr = s.mr := rfl
@[simp] theorem setWaiting_m_midx (q : List Frame) (s : State) : (setWaiting .m q s).midx = s.midx := rfl
@[simp] theorem setWaiting_m_mseal (q : List Frame) (s : State) : (setWaiting .m q s).mseal = s.mseal := rfl
@[simp] theorem setWaiting_m_reqF (q : List Frame) (s : State) : (setWaiting .m q s).reqF = s.reqF := rfl
@[simp] theorem setWaiting_m_reqM (q : List Frame) (s : State) : (setWaiting .m q s).reqM = q := rfl
@[simp] theorem setWaiting_m_rspF (q : List Frame) (s : State) : (setWaiting .m q s).rspF = s.rspF := rfl
@[simp] theorem setWaiting_m_rspM (q : List Frame) (s : State) : (setWaiting .m q s).rspM = s.rspM := rfl
@[simp] theorem setWaiting_m_inputs (q : List Frame) (s : State) :
    (setWaiting .m q s).inputs = s.inputs := rfl
@[simp] theorem setWaiting_m_drawn (q : List Frame) (s : State) : (setWaiting .m q s).drawn = s.drawn := rfl
@[simp] theorem setWaiting_m_waited (q : List Frame) (s : State) : (setWaiting .m q s).waited = s.waited := rfl

/-! ### `withInputs` -/

@[simp] theorem withInputs_mstate (es : List Config.Event) (s : State) :
    (withInputs es s).mstate = s.mstate := rfl
@[simp] theorem withInputs_mh (es : List Config.Event) (s : State) : (withInputs es s).mh = s.mh := rfl
@[simp] theorem withInputs_mt (es : List Config.Event) (s : State) : (withInputs es s).mt = s.mt := rfl
@[simp] theorem withInputs_mr (es : List Config.Event) (s : State) : (withInputs es s).mr = s.mr := rfl
@[simp] theorem withInputs_midx (es : List Config.Event) (s : State) : (withInputs es s).midx = s.midx := rfl
@[simp] theorem withInputs_mseal (es : List Config.Event) (s : State) :
    (withInputs es s).mseal = s.mseal := rfl
@[simp] theorem withInputs_reqF (es : List Config.Event) (s : State) : (withInputs es s).reqF = s.reqF := rfl
@[simp] theorem withInputs_reqM (es : List Config.Event) (s : State) : (withInputs es s).reqM = s.reqM := rfl
@[simp] theorem withInputs_rspF (es : List Config.Event) (s : State) : (withInputs es s).rspF = s.rspF := rfl
@[simp] theorem withInputs_rspM (es : List Config.Event) (s : State) : (withInputs es s).rspM = s.rspM := rfl
@[simp] theorem withInputs_inputs (es : List Config.Event) (s : State) : (withInputs es s).inputs = es := rfl
@[simp] theorem withInputs_drawn (es : List Config.Event) (s : State) :
    (withInputs es s).drawn = s.drawn := rfl
@[simp] theorem withInputs_waited (es : List Config.Event) (s : State) :
    (withInputs es s).waited = s.waited := rfl

/-! ### `resetEvent` -/

@[simp] theorem resetEvent_mstate (s : State) : (resetEvent s).mstate = .idle := rfl
@[simp] theorem resetEvent_mh (s : State) :
    (resetEvent s).mh = leBytes Config.HL (Config.freePreHash s.drawn).toNat := rfl
@[simp] theorem resetEvent_mt (s : State) : (resetEvent s).mt = Config.freeThreshold s.drawn := rfl
@[simp] theorem resetEvent_mr (s : State) : (resetEvent s).mr = Config.freeRound s.drawn := rfl
@[simp] theorem resetEvent_midx (s : State) : (resetEvent s).midx = Config.freeIndex s.drawn := rfl
@[simp] theorem resetEvent_mseal (s : State) :
    (resetEvent s).mseal = leBytes Config.NB (Config.freeSeal s.drawn).toNat := rfl
@[simp] theorem resetEvent_reqF (s : State) : (resetEvent s).reqF = [] := rfl
@[simp] theorem resetEvent_reqM (s : State) : (resetEvent s).reqM = [] := rfl
@[simp] theorem resetEvent_rspF (s : State) : (resetEvent s).rspF = s.rspF := rfl
@[simp] theorem resetEvent_rspM (s : State) : (resetEvent s).rspM = s.rspM := rfl
@[simp] theorem resetEvent_inputs (s : State) : (resetEvent s).inputs = s.inputs := rfl
@[simp] theorem resetEvent_drawn (s : State) : (resetEvent s).drawn = s.drawn + 1 := rfl
@[simp] theorem resetEvent_waited (s : State) : (resetEvent s).waited = s.waited := rfl

/-! ### `accept` -/

@[simp] theorem accept_mstate (h : PreHash) (d : Difficulty) (r : Round) (s : State) :
    (accept h d r s).mstate = .searching := rfl
@[simp] theorem accept_mh (h : PreHash) (d : Difficulty) (r : Round) (s : State) :
    (accept h d r s).mh = h := rfl
@[simp] theorem accept_mt (h : PreHash) (d : Difficulty) (r : Round) (s : State) :
    (accept h d r s).mt = targetToThreshold d := rfl
@[simp] theorem accept_mr (h : PreHash) (d : Difficulty) (r : Round) (s : State) :
    (accept h d r s).mr = r := rfl
@[simp] theorem accept_midx (h : PreHash) (d : Difficulty) (r : Round) (s : State) :
    (accept h d r s).midx = 0#20 := rfl
@[simp] theorem accept_mseal (h : PreHash) (d : Difficulty) (r : Round) (s : State) :
    (accept h d r s).mseal = s.mseal := rfl
@[simp] theorem accept_reqF (h : PreHash) (d : Difficulty) (r : Round) (s : State) :
    (accept h d r s).reqF = s.reqF := rfl
@[simp] theorem accept_reqM (h : PreHash) (d : Difficulty) (r : Round) (s : State) :
    (accept h d r s).reqM = s.reqM := rfl
@[simp] theorem accept_rspF (h : PreHash) (d : Difficulty) (r : Round) (s : State) :
    (accept h d r s).rspF = s.rspF := rfl
@[simp] theorem accept_rspM (h : PreHash) (d : Difficulty) (r : Round) (s : State) :
    (accept h d r s).rspM = s.rspM := rfl
@[simp] theorem accept_inputs (h : PreHash) (d : Difficulty) (r : Round) (s : State) :
    (accept h d r s).inputs = s.inputs := rfl
@[simp] theorem accept_drawn (h : PreHash) (d : Difficulty) (r : Round) (s : State) :
    (accept h d r s).drawn = s.drawn := rfl
@[simp] theorem accept_waited (h : PreHash) (d : Difficulty) (r : Round) (s : State) :
    (accept h d r s).waited = s.waited := rfl

/-! ### Drawing an event changes only the model's own fields -/

@[simp] theorem afterEvent_mstate (s : State) :
    (afterEvent s).mstate = s.mstate := by unfold afterEvent; split <;> rfl
@[simp] theorem afterEvent_mh (s : State) : (afterEvent s).mh = s.mh := by unfold afterEvent; split <;> rfl
@[simp] theorem afterEvent_mt (s : State) : (afterEvent s).mt = s.mt := by unfold afterEvent; split <;> rfl
@[simp] theorem afterEvent_mr (s : State) : (afterEvent s).mr = s.mr := by unfold afterEvent; split <;> rfl
@[simp] theorem afterEvent_midx (s : State) :
    (afterEvent s).midx = s.midx := by unfold afterEvent; split <;> rfl
@[simp] theorem afterEvent_mseal (s : State) :
    (afterEvent s).mseal = s.mseal := by unfold afterEvent; split <;> rfl
@[simp] theorem afterEvent_reqF (s : State) :
    (afterEvent s).reqF = s.reqF := by unfold afterEvent; split <;> rfl
@[simp] theorem afterEvent_reqM (s : State) :
    (afterEvent s).reqM = s.reqM := by unfold afterEvent; split <;> rfl
@[simp] theorem afterEvent_rspF (s : State) :
    (afterEvent s).rspF = s.rspF := by unfold afterEvent; split <;> rfl
@[simp] theorem afterEvent_rspM (s : State) :
    (afterEvent s).rspM = s.rspM := by unfold afterEvent; split <;> rfl

@[simp] theorem nextEvent_cons (e : Config.Event) (es : List Config.Event) (s : State) :
    nextEvent (withInputs (e :: es) s) = e := rfl
@[simp] theorem afterEvent_cons (e : Config.Event) (es : List Config.Event) (s : State) :
    afterEvent (withInputs (e :: es) s) = withInputs es s := rfl
@[simp] theorem withInputs_withInputs (es es' : List Config.Event) (s : State) :
    withInputs es (withInputs es' s) = withInputs es s := rfl
@[simp] theorem withInputs_self (s : State) : withInputs s.inputs s = s := rfl
@[simp] theorem waiting_f (s : State) : waiting .f s = s.reqF := rfl
@[simp] theorem waiting_m (s : State) : waiting .m s = s.reqM := rfl

end Sys2Proof.Machine
end

