-- ==== Sys2Proof/Laws/Ops.lean ====
section
/-! SUPPORT. Once for each shared operation: everything it can do. Proofs cite these lemmas instead of
unfolding the operation. -/

namespace Sys2Proof.Machine

/-- Reporting a frame error appends the one-byte response and changes nothing else. -/
theorem raiseError_eq (p : Port) (e : FrameError) (s : State) :
    raiseError p e s = respond p [(errorStatus e).code] s := rfl

/-- The three things EVALUATE can do (R134). -/
theorem evaluate_cases (s : State) :
    (passes s.mh (candidate s) s.mt = true ∧
      evaluate s = { s with mseal := encodeSeal (candidate s), mstate := .found }) ∨
    (passes s.mh (candidate s) s.mt = false ∧ s.midx.toNat = 2 ^ 20 - 1 ∧
      evaluate s = { s with mstate := .exhausted }) ∨
    (passes s.mh (candidate s) s.mt = false ∧ s.midx.toNat < 2 ^ 20 - 1 ∧
      evaluate s = { s with midx := s.midx + 1#20 }) := by
  have hlt := s.midx.isLt
  cases hp : passes s.mh (candidate s) s.mt with
  | true => exact .inl ⟨rfl, by simp [evaluate, hp]⟩
  | false =>
    by_cases hi : s.midx.toNat = 2 ^ 20 - 1
    · exact .inr (.inl ⟨rfl, hi, by rw [evaluate, hp, if_pos hi]; rfl⟩)
    · exact .inr (.inr ⟨rfl, by omega, by rw [evaluate, hp, if_neg hi]; rfl⟩)

/-- The three things DELIVER can do (R135, R136). -/
theorem deliver_cases (s : State) :
    (s.mstate = .found ∧ deliver s = { s with rspM := s.rspM ++ [0x00#8 :: s.mseal], mstate := .idle }) ∨
    (s.mstate = .exhausted ∧
      deliver s = { s with rspM := s.rspM ++ [0x02#8 :: roundBytes s.mr], mstate := .idle }) ∨
    ((s.mstate = .idle ∨ s.mstate = .searching) ∧ deliver s = s) := by
  cases h : s.mstate <;>
    simp [deliver, pendingResponse, h, mineResponse, response, Status.code, respond]

/-- The two things MINE can do (R133, R145). -/
theorem execMine_cases (h : PreHash) (d : Difficulty) (r : Round) (s : State) :
    (s.mstate = .idle ∧ execMine h d r s = .next (accept h d r s)) ∨
    (s.mstate ≠ .idle ∧
      execMine h d r s = .next { s with reqM := encodeRequest (.mine h d r) :: s.reqM }) := by
  by_cases hi : s.mstate = .idle
  · exact .inl ⟨hi, if_pos hi⟩
  · exact .inr ⟨hi, if_neg hi⟩

/-- Every instruction but MINE emits the response it is owed on port F and changes nothing else. -/
theorem exec_eq_respond (i : Instr) (s : State) (h : i.port = .f) :
    exec i s = .next (respond .f (callResponse i) s) := by
  cases i with
  | mine h d r => cases h
  | _ => rfl

/-- The three things handling a frame can do (R76, R161, R162). -/
theorem handleFrame_cases (p : Port) (s : State) :
    (waiting p s = [] ∧ handleFrame p s = .next s) ∨
    (∃ f q i, waiting p s = f :: q ∧ decodeRequest p f = .request i ∧
      handleFrame p s = exec i (setWaiting p q s)) ∨
    (∃ f q e, waiting p s = f :: q ∧ decodeRequest p f = .error e ∧
      handleFrame p s = .next (raiseError p e (setWaiting p q s))) := by
  unfold handleFrame
  split
  · exact .inl ⟨‹_›, rfl⟩
  · refine .inr ?_
    split
    · exact .inl ⟨_, _, _, ‹_›, ‹_›, rfl⟩
    · exact .inr ⟨_, _, _, ‹_›, ‹_›, rfl⟩

/-- What drawing an open event does to the wait of an enabled EVALUATE (R148): MU has its turn, at the latest
when the wait is over, or one more event has passed of the same wait. -/
theorem openEvent_cases (s : State) (hi : s.inputs = []) (hs : s.mstate = .searching) :
    nextEvent s = .mu ∨
    (s.waited < Config.freeWait (s.drawn - s.waited) ∧ (afterEvent s).waited = s.waited + 1 ∧
      (afterEvent s).drawn - (afterEvent s).waited = s.drawn - s.waited) := by
  by_cases hm : openEvent s = .mu
  · exact .inl (by rw [nextEvent, hi]; exact hm)
  · have hw : waitedAfter s = s.waited + 1 := if_pos ⟨hs, hm⟩
    have hd : ¬ evaluateDue s = true := fun h => hm (if_pos h)
    have ha : afterEvent s = { s with drawn := s.drawn + 1, waited := waitedAfter s } := by
      rw [afterEvent, hi]
    refine .inr ⟨by simpa [evaluateDue, hs] using hd, by rw [ha]; exact hw, ?_⟩
    simp only [ha, hw]; omega

/-- What one step can do, event by event (R7, R8). -/
theorem step_cases (s : State) :
    (∃ f, nextEvent s = .sendF f ∧ step s = .next (send .f f (afterEvent s))) ∨
    (∃ f, nextEvent s = .sendM f ∧ step s = .next (send .m f (afterEvent s))) ∨
    (nextEvent s = .fu ∧ step s = handleFrame .f (afterEvent s)) ∨
    (nextEvent s = .mu ∧ s.mstate = .idle ∧ step s = handleFrame .m (afterEvent s)) ∨
    (nextEvent s = .mu ∧ s.mstate = .searching ∧ step s = .next (evaluate (afterEvent s))) ∨
    (nextEvent s = .mu ∧ (s.mstate = .found ∨ s.mstate = .exhausted) ∧ step s = .next (afterEvent s)) ∨
    (nextEvent s = .takeM ∧ step s = .next (deliver (afterEvent s))) ∨
    (nextEvent s = .reset ∧ step s = .next (resetEvent (afterEvent s))) := by
  unfold step
  cases h : nextEvent s <;> simp only [perform, fuStep, muStep, afterEvent_mstate]
  case mu => cases hs : s.mstate <;> simp
  all_goals simp

/-- A run over a first event and the rest. -/
theorem run_cons {e : Config.Event} {es : List Config.Event} {s t : State} (k : Nat)
    (h : perform e (withInputs es s) = .next t) : run (k + 1) (withInputs (e :: es) s) = run k t := by
  simp only [run, step, nextEvent_cons, afterEvent_cons, h]

end Sys2Proof.Machine
end

