-- ==== Sys2Proof/Laws/Miner.lean ====
section
/-! SUPPORT. The scan of `mine`, once: its two unfoldings and the threshold that nothing passes. -/

namespace Sys2Proof.Machine

/-- No work value is below 0 (R125 (a)). -/
@[simp] theorem passes_zero_threshold (h : PreHash) (n : Nonce) : passes h n 0#64 = false := by
  simp [passes, BitVec.lt_def]

/-- A scan whose first candidate passes finds it. -/
theorem scan_succ_of_passes {h : PreHash} {t : Work} {r : Round} {i : Nat} (fuel : Nat)
    (hp : passes h (candidateAt r i) t = true) :
    scan h t r (fuel + 1) i = .found (encodeSeal (candidateAt r i)) := if_pos hp

/-- A scan whose first candidate fails goes on with the next. -/
theorem scan_succ_of_fails {h : PreHash} {t : Work} {r : Round} {i : Nat} (fuel : Nat)
    (hp : passes h (candidateAt r i) t = false) :
    scan h t r (fuel + 1) i = scan h t r fuel (i + 1) := if_neg (by simp [hp])

/-- Under threshold 0 a scan is exhausted (R125 (a), R146). -/
theorem scan_zero_threshold (h : PreHash) (r : Round) (fuel i : Nat) :
    scan h 0#64 r fuel i = .exhausted r := by
  induction fuel generalizing i with
  | zero => rfl
  | succ fuel ih => rw [scan_succ_of_fails fuel (passes_zero_threshold _ _), ih]

/-- Difficulty 0 exhausts every window (R146, corner cases). -/
theorem mine_zero_difficulty (h : PreHash) (r : Round) : mine h 0#256 r = .exhausted r :=
  scan_zero_threshold h r _ _

/-- A call whose first candidate passes finds it. -/
theorem mine_of_first_passes (h : PreHash) (d : Difficulty) (r : Round)
    (hp : passes h (candidateAt r 0) (targetToThreshold d) = true) :
    mine h d r = .found (encodeSeal (candidateAt r 0)) := by
  rw [mine, show Config.WSIZE = (2 ^ 20 - 1) + 1 from rfl, scan_succ_of_passes _ hp]

end Sys2Proof.Machine
end

