-- ==== Sys2Proof/Laws/PerInstr.lean ====
section
/-! SUPPORT. Statements made per instruction, about the instruction as syntax. -/

namespace Sys2Proof.Laws.EncodedShape

/-- The encoded frame of a well-formed instruction begins with its opcode, the opcode map names its format
and its port, and the frame's length is legal for that format (R60 to R70). -/
def Statement (i : Instr) : Prop :=
  i.wf = true →
    ∃ operands, encodeRequest i = i.opcode :: operands ∧ formatOf i.opcode = some i.format ∧
      i.format.port = i.port ∧ i.format.lengthOk (encodeRequest i).length = true

theorem encode (n : Nonce) : Statement (.encode n) := fun _ =>
  ⟨_, rfl, rfl, rfl, by simp [encodeRequest, encodeOperands, Instr.format, Format.lengthOk, Format.minLength]⟩

theorem decode (s : Seal) : Statement (.decode s) := fun _ =>
  ⟨_, rfl, rfl, rfl, by simp [encodeRequest, encodeOperands, Instr.format, Format.lengthOk, Format.minLength]⟩

theorem checksum (h : PreHash) (n : Nonce) : Statement (.checksum h n) := fun w => by
  have hl : h.length = 32 := by simpa [Instr.wf, preHashOk] using w
  exact ⟨_, rfl, rfl, rfl, by
    simp [encodeRequest, encodeOperands, Instr.format, Format.lengthOk, Format.minLength, hl]⟩

theorem t2t (d : Difficulty) : Statement (.t2t d) := fun _ =>
  ⟨_, rfl, rfl, rfl, by simp [encodeRequest, encodeOperands, Instr.format, Format.lengthOk, Format.minLength]⟩

theorem getdiff : Statement .getdiff := fun _ => ⟨_, rfl, rfl, rfl, rfl⟩

theorem verify (h : PreHash) (s : Seal) (d : Difficulty) : Statement (.verify h s d) := fun w => by
  have hl : h.length = 32 := by simpa [Instr.wf, preHashOk] using w
  exact ⟨_, rfl, rfl, rfl, by
    simp [encodeRequest, encodeOperands, Instr.format, Format.lengthOk, Format.minLength, hl]
    omega⟩

theorem mine (h : PreHash) (d : Difficulty) (r : Round) : Statement (.mine h d r) := fun w => by
  have hl : h.length = 32 := by simpa [Instr.wf, preHashOk] using w
  exact ⟨_, rfl, rfl, rfl, by
    simp [encodeRequest, encodeOperands, Instr.format, Format.lengthOk, Format.minLength, hl]⟩

end Sys2Proof.Laws.EncodedShape
end

