-- ==== Sys2Proof/Tests/Slice0.lean ====
section
/-! SUPPORT. The model's own tests: the checks of WellFormed, frames written out from the encoding tables,
vectors of spec/95_test_vectors.md, and for every statement with hypotheses a witness that meets them. -/

namespace Sys2Proof.Tests

open Sys2Proof.Machine

/-- 32 zero bytes: `z32` of 95_test_vectors.md. -/
def z32 : PreHash := List.replicate 32 0x00#8
/-- Bytes 0 to 31, byte sum 496: `h1` of 95_test_vectors.md. -/
def h1 : PreHash := (List.range 32).map (BitVec.ofNat 8)
/-- 32 bytes of 0xFF: `hF` of 95_test_vectors.md. -/
def hF : PreHash := List.replicate 32 0xFF#8
/-- `k` zero bytes. -/
def zeros (k : Nat) : List Byte := List.replicate k 0x00#8
/-- The reset state with these events to come. -/
def withEvents (es : List Config.Event) : State := withInputs es State.reset
/-- The outcome is a next state of which `p` holds. -/
def nextHas (o : Host.Outcome State Fault Refusal) (p : State → Bool) : Bool :=
  match o with
  | .next t => p t
  | .fault _ => false
  | .refused _ => false

/-! ### WellFormed: each check refuses an ill-formed term -/

theorem test_wf_refuses_short_checksum : (Instr.checksum (zeros 31) 0#256).wf = false := by decide
theorem test_wf_refuses_long_verify : (Instr.verify (zeros 33) [] 0#256).wf = false := by decide
theorem test_wf_refuses_empty_mine : (Instr.mine [] 0#256 0#224).wf = false := by decide
theorem test_wf_accepts : (Instr.mine z32 0#256 0#224).wf = true := by decide

/-! ### Decoding: one frame per constructor, bytes from R62 to R69 and 95_test_vectors.md -/

-- vector E7: 2^32
theorem test_decode_encode_word :
    decodeRequest .f (0x01#8 :: zeros 4 ++ 0x01#8 :: zeros 27) = .request (.encode 4294967296#256) := by
  decide +kernel
-- vectors K1 and K9: any length is well formed
theorem test_decode_decode_word :
    decodeRequest .f [0x02#8] = .request (.decode []) ∧
      decodeRequest .f [0x02#8, 0x02#8, 0x01#8] = .request (.decode [0x02#8, 0x01#8]) := by decide +kernel
-- vector W9: pre-hash first, nonce 2^255 last
theorem test_decode_checksum_word :
    decodeRequest .f (0x03#8 :: h1 ++ zeros 31 ++ [0x80#8]) =
      .request (.checksum h1 (BitVec.ofNat 256 (2 ^ 255))) := by decide +kernel
-- vector T7: 2^64 + 5
theorem test_decode_t2t_word :
    decodeRequest .f (0x04#8 :: 0x05#8 :: zeros 7 ++ 0x01#8 :: zeros 23) =
      .request (.t2t (BitVec.ofNat 256 (2 ^ 64 + 5))) := by decide +kernel
theorem test_decode_getdiff_word : decodeRequest .f [0x05#8] = .request .getdiff := by decide +kernel
-- vector V3: frame order h, d, s
theorem test_decode_verify_word :
    decodeRequest .f (0x06#8 :: h1 ++ [0xF0#8, 0x01#8] ++ zeros 30 ++ [0xAA#8]) =
      .request (.verify h1 [0xAA#8] 496#256) := by decide +kernel
-- vector M11: round 257
theorem test_decode_mine_word :
    decodeRequest .m (0x07#8 :: h1 ++ [0xF3#8, 0x01#8] ++ zeros 30 ++ [0x01#8, 0x01#8] ++ zeros 26) =
      .request (.mine h1 499#256 257#224) := by decide +kernel
-- vectors X1, X2, X3, X4, X5 (port F)
theorem test_decode_errors_port_f :
    decodeRequest .f [] = .error .badLength ∧ decodeRequest .f [0x00#8] = .error .illegalOpcode ∧
      decodeRequest .f (0x08#8 :: zeros 32) = .error .illegalOpcode ∧
      decodeRequest .f [0xFF#8] = .error .illegalOpcode ∧
      decodeRequest .f (0x07#8 :: zeros 92) = .error .illegalOpcode := by decide +kernel
-- vectors X6, X7, X8, X9, M14 (port M)
theorem test_decode_errors_port_m :
    decodeRequest .m [] = .error .badLength ∧ decodeRequest .m (0x01#8 :: zeros 32) = .error .illegalOpcode ∧
      decodeRequest .m (zeros 93) = .error .illegalOpcode ∧
      decodeRequest .m (0x07#8 :: zeros 93) = .error .badLength ∧
      decodeRequest .m (0x07#8 :: zeros 91) = .error .badLength := by decide +kernel
-- vectors E8, E9, W13, T12, G2, V18
theorem test_decode_bad_lengths :
    decodeRequest .f (0x01#8 :: zeros 31) = .error .badLength ∧
      decodeRequest .f (0x01#8 :: zeros 33) = .error .badLength ∧
      decodeRequest .f (0x03#8 :: zeros 63) = .error .badLength ∧
      decodeRequest .f (0x04#8 :: zeros 8) = .error .badLength ∧
      decodeRequest .f [0x05#8, 0x00#8] = .error .badLength ∧
      decodeRequest .f (0x06#8 :: zeros 63) = .error .badLength := by decide +kernel
theorem test_table_words :
    (List.range 9).map (fun w => (decodeTableWord 8 w).map Instr.opcode) =
      [none, some 0x01#8, some 0x02#8, some 0x03#8, some 0x04#8, some 0x05#8, some 0x06#8, some 0x07#8,
        none] := by decide +kernel

/-! ### One step on small states -/

/-- The response of one port F request from reset. -/
def answersF (f r : Frame) : Bool :=
  nextHas (step (send .f f (withEvents [.fu]))) fun t =>
    decide (t = { withEvents [] with rspF := [r] })

-- vector E3
theorem test_encode : answersF (0x01#8 :: 0x02#8 :: 0x01#8 :: zeros 30) (0x00#8 :: 0x02#8 :: 0x01#8 :: zeros 30) = true := by
  decide +kernel
-- vectors K8, K3, K5
theorem test_decode :
    answersF (0x02#8 :: 0x02#8 :: 0x01#8 :: zeros 30) (0x00#8 :: 0x02#8 :: 0x01#8 :: zeros 30) = true := by
  decide +kernel
theorem test_decode_none :
    answersF (0x02#8 :: zeros 31) [0x01#8] = true ∧ answersF (0x02#8 :: zeros 33) [0x01#8] = true := by
  decide +kernel
-- vectors W8 and W7
theorem test_checksum :
    answersF (0x03#8 :: h1 ++ [0x88#8, 0x77#8, 0x66#8, 0x55#8, 0x44#8, 0x33#8, 0x22#8, 0x11#8] ++ zeros 24)
      (0x00#8 :: 0x54#8 :: 0x04#8 :: zeros 6) = true := by decide +kernel
theorem test_checksum_max : answersF (0x03#8 :: hF ++ hF) (0x00#8 :: 0xC0#8 :: 0x3F#8 :: zeros 6) = true := by
  decide +kernel
-- vectors T3 and T6
theorem test_t2t :
    answersF (0x04#8 :: [0x00#8, 0xCA#8, 0x9A#8, 0x3B#8] ++ zeros 28)
      (0x00#8 :: [0x00#8, 0xCA#8, 0x9A#8, 0x3B#8] ++ zeros 4) = true := by decide +kernel
theorem test_t2t_clamps :
    answersF (0x04#8 :: zeros 8 ++ 0x01#8 :: zeros 23) (0x00#8 :: List.replicate 8 0xFF#8) = true := by
  decide +kernel
-- vector G1
theorem test_getdiff :
    answersF [0x05#8] (0x00#8 :: List.replicate 6 0xFF#8 ++ 0x3F#8 :: zeros 25) = true := by decide +kernel
-- vectors V3 and V4: equality is rejected
theorem test_verify_strict :
    answersF (0x06#8 :: h1 ++ [0xF0#8, 0x01#8] ++ zeros 30 ++ zeros 32) [0x00#8, 0x00#8] = true ∧
      answersF (0x06#8 :: h1 ++ [0xF1#8, 0x01#8] ++ zeros 30 ++ zeros 32) [0x00#8, 0x01#8] = true := by
  decide +kernel
-- vectors V10 and V5: the clamp; the empty seal
theorem test_verify_clamp_and_empty_seal :
    answersF (0x06#8 :: hF ++ zeros 8 ++ 0x01#8 :: zeros 23 ++ hF) [0x00#8, 0x01#8] = true ∧
      answersF (0x06#8 :: z32 ++ List.replicate 8 0xFF#8 ++ zeros 24) [0x00#8, 0x00#8] = true := by
  decide +kernel
-- program P5, frames 2 and 4
theorem test_illegal_opcode_both_ports :
    answersF [0x09#8] [0xE1#8] = true ∧
      nextHas (step (send .m (0x03#8 :: zeros 64) (withEvents [.mu])))
        (fun t => decide (t = { withEvents [] with rspM := [[0xE1#8]] })) = true := by decide +kernel
-- vector M4: the latches after ACCEPT
theorem test_mine_accept :
    nextHas (step (send .m (0x07#8 :: h1 ++ [0xF1#8, 0x01#8] ++ zeros 30 ++ 0x01#8 :: zeros 27) (withEvents [.mu])))
      (fun t => decide (t = { withEvents [] with
        mstate := .searching, mh := h1, mt := 497#64, mr := 1#224, midx := 0#20 })) = true := by decide +kernel

/-- MU searching h1 under threshold `t` in round 1 at index `i`, its turn next. -/
def searching (t : Work) (i : Index) : State :=
  { withEvents [.mu] with mstate := .searching, mh := h1, mt := t, mr := 1#224, midx := i }

-- vector M4's trace: EVALUATE 1 and EVALUATE 1048576; vector M5: found at the first candidate
theorem test_evaluate_trace :
    nextHas (step (searching 497#64 0#20)) (fun t => decide (t.midx = 1#20 ∧ t.mstate = .searching)) = true ∧
      nextHas (step (searching 497#64 1048575#20)) (fun t => decide (t.mstate = .exhausted)) = true ∧
      nextHas (step (searching 498#64 0#20))
        (fun t => decide (t.mstate = .found ∧ t.mseal = zeros 4 ++ 0x01#8 :: zeros 27)) = true := by
  decide +kernel
theorem test_deliver_exhausted :
    nextHas (step { searching 497#64 1048575#20 with mstate := .exhausted, inputs := [.takeM] })
      (fun t => decide (t.rspM = [0x02#8 :: 0x01#8 :: zeros 27] ∧ t.mstate = .idle)) = true := by
  decide +kernel
theorem test_reset_event :
    nextHas (step { searching 497#64 5#20 with inputs := [.reset], reqF := [[0x05#8]], reqM := [[]] })
      (fun t => decide (t.mstate = .idle ∧ t.reqF = [] ∧ t.reqM = [] ∧ t.rspM = [])) = true := by
  decide +kernel
theorem test_fetch_word_runs_first :
    nextHas (step (State.reset.withFetchWord 8 0x03)) (fun t => decide (t.rspF = [0x00#8 :: zeros 8])) = true ∧
      nextHas (step (State.reset.withFetchWord 8 0x07)) (fun t => decide (t.mstate = .searching)) = true := by
  decide +kernel
-- 95_test_vectors.md 2.1, rows 2, 5, 7 and 9
theorem test_accumulator_step :
    accStep 0#64 0xFF#8 = 0xFF#64 ∧ accStep 0xFFFFFFFFFFFFFF00#64 0xFF#8 = 0xFFFFFFFFFFFFFFFF#64 ∧
      accStep 0xFFFFFFFFFFFFFFFF#64 0x01#8 = 0#64 ∧
      accStep 0x8000000000000000#64 0x80#8 = 0x8000000000000080#64 := by decide

-- the examples of R92, R103 and R93, as R80 writes them
theorem test_spelling :
    spellRequest (.checksum [0x00#8, 0x1F#8] 0x0102#256) = "CHECKSUM x\"001F\", 258".toList ∧
      spellRequest .getdiff = "GETDIFF".toList ∧
      spellReply (.ok (.int 499)) = "-> OK 499".toList ∧ spellReply .none = "-> NONE".toList := by decide +kernel
theorem test_read_reply :
    readReply (.checksum h1 0x0102#256) (0x00#8 :: 0xF3#8 :: 0x01#8 :: zeros 6) = some (.ok (.int 499)) ∧
      readReply (.mine z32 0#256 5#224) (0x02#8 :: 0x05#8 :: zeros 27) = some (.exhausted 5) ∧
      readReply (.t2t 5#256) [0x01#8] = none := by decide +kernel

/-! ### Witnesses: the hypotheses of each statement can be met -/

/-- A state with MU in Found, the host taking the response next. -/
def foundState : State :=
  { withEvents [.takeM] with mstate := .found, mseal := zeros 32, mh := z32, mt := 1#64 }
/-- A state with MU in Exhausted, the host taking the response next. -/
def exhaustedState : State := { withEvents [.takeM] with mstate := .exhausted, mr := 7#224 }

theorem witness_DecodeUndoesEncode_WrittenRequestIsReadBack :
    (Instr.mine h1 496#256 5#224).wf = true ∧ (Instr.verify h1 [] 1#256).wf = true := by decide +kernel
theorem witness_EachFrameHasOneMeaning : decodeRequest .f [0x05#8] = .request .getdiff := by decide +kernel
theorem witness_DecodingChecksEmptyThenOpcodeThenLength :
    ¬ PortAccepts .f 0x00#8 ∧ ¬ PortAccepts .f 0x07#8 ∧ ¬ PortAccepts .m 0x06#8 ∧ ¬ PortAccepts .m 0x08#8 ∧
      PortAccepts .f 0x06#8 ∧ ¬ LegalLength 0x06#8 (63 + 1) ∧ LegalLength 0x06#8 (64 + 1) ∧
      PortAccepts .m 0x07#8 ∧ ¬ LegalLength 0x07#8 (91 + 1) ∧ LegalLength 0x07#8 (92 + 1) ∧
      ¬ LegalLength 0x07#8 (93 + 1) := by
  simp [PortAccepts, LegalLength]
theorem witness_TruncatedSealIsAnsweredAlike :
    32 < (zeros 34).length ∧ 32 < 33 ∧ z32.length = 32 := by decide
theorem witness_AccumulatorStepWrapsAround :
    2 ^ 64 ≤ (0xFFFFFFFFFFFFFFFF#64).toNat + (0x01#8).toNat := by decide
theorem witness_ChecksumIsTheByteSum_ChecksumAnswersTheWork :
    (h1 ++ leBytes 32 (0x0102#256).toNat).Perm (h1 ++ leBytes 32 (0x0201#256).toNat) ∧
      (leBytes 32 (0x0102#256).toNat).Perm (leBytes 32 (0x0201#256).toNat) ∧ h1.length = 32 ∧
      (zeros 63).length ≠ 64 := by
  decide +kernel
theorem witness_ChecksumNeverWrapsAtThirtyTwoBytes : hF.length = 32 := by decide
theorem witness_ThresholdLawsHold :
    (0#256).toNat ≤ (1#256).toNat ∧ (BitVec.ofNat 256 (2 ^ 64 - 1)).toNat ≤ 2 ^ 64 - 1 ∧
      2 ^ 64 - 1 ≤ (BitVec.ofNat 256 (2 ^ 64 - 1)).toNat ∧ 2 ^ 64 - 1 ≤ (BitVec.ofNat 256 (2 ^ 64)).toNat := by
  decide +kernel
theorem witness_UnderThePolicyEveryNoncePasses : h1.length = 32 ∧ (zeros 32).length = 32 := by decide
theorem witness_SealRoundTripIsLossless_SealLengthIsTheOnlyTest :
    (zeros 32).length = 32 ∧ (zeros 31).length ≠ 32 ∧ (zeros 33).length ≠ 32 ∧
      decodeSeal (zeros 32) = some 0#256 := by decide +kernel
theorem witness_VerifyConsequences :
    2 ^ 64 - 1 ≤ (BitVec.ofNat 256 (2 ^ 64 - 1)).toNat ∧ h1.length = 32 ∧ (zeros 32).length = 32 := by
  decide +kernel
theorem witness_MinedSealVerifies : mine z32 1#256 0#224 = .found (encodeSeal 0#256) :=
  mine_of_first_passes z32 1#256 0#224 (by decide +kernel)
theorem witness_WindowsAreDisjointWithGaps :
    (0#224) ≠ 1#224 ∧ 2 ^ 20 - 1 < 2 ^ 20 ∧ (0#224).toNat + 1 = (1#224).toNat := by decide
theorem witness_MineHasAClosedForm :
    h1.length = 32 ∧ mine h1 0#256 0#224 = .exhausted 0#224 := ⟨by decide, mine_zero_difficulty _ _⟩
theorem witness_EncodeAnswersTheSeal_ThresholdOperationAnswersTheClamp :
    (zeros 31).length ≠ 32 ∧ (zeros 33).length ≠ 32 := by decide
theorem witness_DecodeAnswersTheNonceOrNone : (zeros 32).length = 32 ∧ (zeros 33).length ≠ 32 := by decide
theorem witness_GetdiffAnswersTheConstant : [0x00#8] ≠ ([] : List Byte) := by decide
theorem witness_VerifyAnswersTheBoolean :
    verify h1 (zeros 32) 497#256 = true ∧ verify h1 (zeros 32) 496#256 = false ∧ h1.length = 32 ∧
      (zeros 31).length ≠ 32 ∧ checksum h1 0#256 = targetToThreshold 496#256 ∧ (zeros 63).length < 64 := by
  decide +kernel
theorem witness_MineInIdleStartsTheSearch_MineWhileBusyWaits :
    State.reset.mstate = .idle ∧ foundState.mstate ≠ .idle := by decide
theorem witness_StepRunsTheDecodedRequest :
    (nextEvent { withEvents [.fu] with reqF := [[0x05#8]] } = .fu ∧
      decodeRequest .f [0x05#8] = .request .getdiff) ∧
    (nextEvent { withEvents [.mu] with reqM := [0x07#8 :: zeros 92] } = .mu ∧ (withEvents [.mu]).mstate = .idle ∧
      decodeRequest .m (0x07#8 :: zeros 92) = .request (.mine z32 0#256 0#224)) := by decide +kernel
theorem witness_BadFramesAreAnsweredAndLeaveNoTrace :
    nextEvent { withEvents [.fu] with reqF := [[], [0x07#8], 0x01#8 :: zeros 31] } = .fu ∧
      ¬ PortAccepts .f 0x07#8 ∧ PortAccepts .f 0x01#8 ∧ ¬ LegalLength 0x01#8 ((zeros 31).length + 1) ∧
      nextEvent { withEvents [.mu] with reqM := [[], [0x06#8], 0x07#8 :: zeros 91] } = .mu ∧
      (withEvents [.mu]).mstate = .idle ∧ ¬ PortAccepts .m 0x06#8 ∧ PortAccepts .m 0x07#8 ∧
      ¬ LegalLength 0x07#8 ((zeros 91).length + 1) ∧ ¬ LegalLength 0x07#8 ((zeros 93).length + 1) := by
  simp [PortAccepts, LegalLength, zeros, nextEvent, withEvents, withInputs, State.reset]
theorem witness_AcceptStepCopiesTheOperands :
    nextEvent { withEvents [.mu] with reqM := [0x07#8 :: zeros 92] } = .mu ∧ (withEvents [.mu]).mstate = .idle ∧
      decodeRequest .m (0x07#8 :: zeros 92) = .request (.mine z32 0#256 0#224) ∧
      decodeRequest .m (0x07#8 :: zeros 91) = .error .badLength := by decide +kernel
/-- Work 497 at the first candidate: below 498, not below 497; and the two boundary indices. -/
theorem witness_EvaluateStepTriesOneCandidate :
    nextEvent (searching 497#64 0#20) = .mu ∧ (searching 497#64 0#20).mstate = .searching ∧
      (4294967296#256).toNat = (1#224).toNat * 2 ^ 32 + (0#20).toNat ∧
      (checksum h1 4294967296#256).toNat < (498#64).toNat ∧
      (497#64).toNat ≤ (checksum h1 4294967296#256).toNat ∧ (0#20).toNat < 2 ^ 20 - 1 ∧
      (4296015870#256).toNat = (1#224).toNat * 2 ^ 32 + (1048574#20).toNat ∧
      (497#64).toNat ≤ (checksum h1 4296015870#256).toNat ∧ (1048574#20).toNat < 2 ^ 20 - 1 ∧
      (4296015871#256).toNat = (1#224).toNat * 2 ^ 32 + (1048575#20).toNat ∧
      (497#64).toNat ≤ (checksum h1 4296015871#256).toNat ∧ (1048575#20).toNat = 2 ^ 20 - 1 := by
  decide +kernel
theorem witness_DeliverInFoundEmitsTheSeal :
    nextEvent foundState = .takeM ∧ foundState.mstate = .found := by decide
theorem witness_DeliverInExhaustedEmitsTheRound :
    nextEvent exhaustedState = .takeM ∧ exhaustedState.mstate = .exhausted := by decide
theorem witness_TransitionsAreComplete_OnlyTheFiveStatusesAreEmitted :
    step (send .f [0x05#8] (withEvents [.fu])) =
      .next { withEvents [] with rspF := [0x00#8 :: difficultyBytes currentDifficulty] } := rfl
theorem witness_PortMTakesNoRequestWhileBusy :
    foundState.mstate ≠ .idle ∧ nextEvent foundState ≠ .reset ∧
      step foundState = .next { withInputs [] foundState with rspM := [0x00#8 :: zeros 32], mstate := .idle } :=
  ⟨by decide, by decide, rfl⟩
theorem witness_NoRequestStopsACall :
    foundState.mstate ≠ .idle ∧
      step (withInputs [.sendM []] foundState) = .next { withInputs [] foundState with reqM := [[]] } ∧
      step (withInputs [.sendF []] foundState) = .next { withInputs [] foundState with reqF := [[]] } ∧
      step (withInputs [.fu] foundState) = .next (withInputs [] foundState) ∧
      step (withInputs [.takeM] (searching 1#64 0#20)) = .next (withInputs [] (searching 1#64 0#20)) :=
  ⟨by decide, rfl, rfl, rfl, rfl⟩
theorem witness_PortsAreIndependent :
    nextEvent (withInputs [.fu] foundState) = .fu ∧ nextEvent (withInputs [.fu] exhaustedState) = .fu ∧
      foundState.reqF = exhaustedState.reqF ∧
      step (withInputs [.fu] foundState) = .next (withInputs [] foundState) ∧
      step (withInputs [.fu] exhaustedState) = .next (withInputs [] exhaustedState) ∧
      (nextEvent foundState = .takeM ∧ step foundState = .next (deliver (withInputs [] foundState))) ∧
      (nextEvent (withEvents [.mu]) = .mu ∧ step (withEvents [.mu]) = .next (withEvents [])) ∧
      (nextEvent (withEvents [.sendM []]) = .sendM [] ∧
        step (withEvents [.sendM []]) = .next { withEvents [] with reqM := [[]] }) :=
  ⟨rfl, rfl, rfl, rfl, rfl, ⟨rfl, rfl⟩, ⟨rfl, rfl⟩, ⟨rfl, rfl⟩⟩
theorem witness_SentFramesQueueInOrder :
    nextEvent (withEvents [.sendF []]) = .sendF [] ∧ nextEvent (withEvents [.sendM []]) = .sendM [] := by decide
theorem witness_AgentsWithoutAStepChangeNothing :
    (nextEvent (withEvents [.fu]) = .fu ∧ (withEvents [.fu]).reqF = []) ∧
      (nextEvent (withEvents [.mu]) = .mu ∧ (withEvents [.mu]).mstate = .idle ∧ (withEvents [.mu]).reqM = []) ∧
      (nextEvent (withInputs [.mu] foundState) = .mu ∧ foundState.mstate = .found) ∧
      (nextEvent (withInputs [.mu] exhaustedState) = .mu ∧ exhaustedState.mstate = .exhausted) ∧
      (nextEvent (withEvents [.takeM]) = .takeM ∧ (withEvents [.takeM]).mstate = .idle) ∧
      (nextEvent (withInputs [.takeM] (searching 1#64 0#20)) = .takeM ∧
        (searching 1#64 0#20).mstate = .searching) := by decide
theorem witness_ResetEventAbandonsTheCall : nextEvent (withInputs [.reset] foundState) = .reset := by decide
theorem witness_EveryStepKeepsTheLatchInvariant :
    Inv (searching 497#64 0#20) ∧ step (searching 497#64 0#20) = .next (evaluate (withInputs [] (searching 497#64 0#20))) :=
  ⟨⟨by decide, by decide, fun _ j hj => by simp [searching] at hj, nofun, nofun⟩, rfl⟩
theorem witness_LatchesThatMeanNothingAreNeverRead :
    SameMeaning (withEvents [.fu]) { withEvents [.fu] with mt := 5#64, mseal := [] } ∧
      step (withEvents [.fu]) = .next (withEvents []) :=
  ⟨⟨rfl, nofun, nofun, nofun, ⟨rfl, rfl, rfl, rfl⟩, ⟨rfl, rfl, rfl⟩⟩, rfl⟩
theorem witness_ResponsesFollowTheTable_mine :
    mine z32 1#256 0#224 = .found (encodeSeal 0#256) ∧ mine z32 0#256 0#224 = .exhausted 0#224 :=
  ⟨mine_of_first_passes z32 1#256 0#224 (by decide +kernel), mine_zero_difficulty _ _⟩
theorem witness_ResponsesFollowTheTable :
    decodeRequest .f (0x01#8 :: zeros 32) = .request (.encode 0#256) ∧
      decodeRequest .f (0x02#8 :: zeros 32) = .request (.decode (zeros 32)) ∧
      decodeRequest .f [0x02#8] = .request (.decode []) ∧
      decodeRequest .f (0x03#8 :: zeros 64) = .request (.checksum z32 0#256) ∧
      decodeRequest .f (0x04#8 :: zeros 32) = .request (.t2t 0#256) ∧
      decodeRequest .f (0x06#8 :: zeros 64) = .request (.verify z32 [] 0#256) ∧
      decodeRequest .f [0x05#8] = .request .getdiff ∧
      decodeRequest .m (0x07#8 :: 0x00#8 :: zeros 31 ++ 0x01#8 :: zeros 31 ++ zeros 28) =
        .request (.mine z32 1#256 0#224) ∧
      decodeRequest .m (0x07#8 :: zeros 92) = .request (.mine z32 0#256 0#224) ∧
      decodeRequest .m [0x06#8] = .error .illegalOpcode ∧
      decodeRequest .m [] = .error .badLength := by decide +kernel
theorem witness_PortFAnswersEveryRequestInOrder_PortMAnswersEveryRequestInOrder :
    Config.Event.reset ∉ [Config.Event.sendF [0x05#8], .fu, .sendM [], .mu, .takeM] ∧
      State.reset.mstate = .idle := by decide
theorem witness_AcceptedMineIsAnswered_ResetLosesOnlyTime :
    z32.length = 32 ∧ State.reset.mstate = .idle ∧
      (send .m (encodeRequest (.mine z32 1#256 0#224)) State.reset).reqM = encodeRequest (.mine z32 1#256 0#224) :: [] ∧
      Config.Event.reset ∉ List.replicate (2 ^ 20) Config.Event.mu ∧
      Config.Event.takeM ∉ List.replicate (2 ^ 20) Config.Event.mu ∧
      2 ^ 20 ≤ (List.replicate (2 ^ 20) Config.Event.mu).count .mu := by
  refine ⟨by decide, rfl, rfl, ?_, ?_, ?_⟩
  · exact fun h => nomatch List.eq_of_mem_replicate h
  · exact fun h => nomatch List.eq_of_mem_replicate h
  · rw [List.count_replicate_self]
/-- A schedule in which MU and the host have every other turn. -/
def alternating (n : Nat) : Config.Event := if n % 2 = 0 then .mu else .takeM

theorem witness_EveryMineIsAnsweredUnderFairness :
    EvaluateIsWeaklyFair alternating (send .m (encodeRequest (.mine z32 1#256 0#224)) State.reset) ∧
      HostTakesResponses alternating (send .m (encodeRequest (.mine z32 1#256 0#224)) State.reset) ∧
      (∀ n, alternating n ≠ .reset) ∧ z32.length = 32 ∧
      runSchedule alternating 0 (send .m (encodeRequest (.mine z32 1#256 0#224)) State.reset) =
        .next (send .m (encodeRequest (.mine z32 1#256 0#224)) State.reset) ∧
      (send .m (encodeRequest (.mine z32 1#256 0#224)) State.reset).mstate = .idle ∧
      (send .m (encodeRequest (.mine z32 1#256 0#224)) State.reset).reqM =
        encodeRequest (.mine z32 1#256 0#224) :: [] ∧
      alternating 0 = .mu := by
  refine ⟨fun n _ => ⟨2 * n, by omega, if_pos (by omega)⟩,
    fun n _ => ⟨2 * n + 1, by omega, if_neg (by omega)⟩, fun n => ?_, by decide, rfl, rfl, rfl, rfl⟩
  unfold alternating; split <;> decide
theorem witness_EnabledEvaluateIsTakenEventually : (withInputs [] (searching 1#64 0#20)).mstate = .searching := by
  decide
theorem witness_AcceptedMineComesToItsResponse :
    z32.length = 32 ∧
      (withInputs [.mu] (send .m (encodeRequest (.mine z32 1#256 0#224)) State.reset)).mstate = .idle ∧
      nextEvent (withInputs [.mu] (send .m (encodeRequest (.mine z32 1#256 0#224)) State.reset)) = .mu ∧
      (withInputs [.mu] (send .m (encodeRequest (.mine z32 1#256 0#224)) State.reset)).reqM =
        encodeRequest (.mine z32 1#256 0#224) :: [] ∧
      pendingResponse (withInputs [.mu] foundState) = some (0x00#8 :: zeros 32) ∧
      nextEvent (withInputs [.mu] foundState) ≠ .takeM ∧ nextEvent (withInputs [.mu] foundState) ≠ .reset ∧
      step (withInputs [.mu] foundState) = .next (withInputs [] foundState) :=
  ⟨by decide, rfl, rfl, rfl, rfl, by decide, by decide, rfl⟩

end Sys2Proof.Tests
end

section
/-! PROOFS. The family 00_scope.md: the little-endian byte order (R19), and what port F is owed under every
schedule (R20, R49, R51, R58). -/

/-! ### Byte order -/

namespace Sys2Proof

/-- Byte i of `le_N(v)` is bits[8i+7:8i] of v (R19). -/
theorem leBytes_getElem? {n i : Nat} (v : Nat) (h : i < n) :
    (leBytes n v)[i]? = some (BitVec.ofNat 8 (v / 2 ^ (8 * i))) := by
  induction n generalizing v i with
  | zero => omega
  | succ n ih =>
    cases i with
    | zero => simp [leBytes_succ]
    | succ i =>
      have hdiv : v / 256 / 2 ^ (8 * i) = v / 2 ^ (8 * (i + 1)) := by
        rw [Nat.div_div_eq_div_mul, Nat.mul_succ, pow_add, mul_comm, show 256 = 2 ^ 8 from rfl]
      rw [leBytes_succ, List.getElem?_cons_succ, ih _ (by omega), hdiv]

/-- `from_le(B)` = Σ B[i] × 2^(8i) (R19). -/
theorem fromLE_eq_sum (b : List Byte) :
    fromLE b = ∑ i ∈ Finset.range b.length, (b.getD i 0#8).toNat * 2 ^ (8 * i) := by
  induction b with
  | nil => rfl
  | cons c bs ih =>
    rw [fromLE_cons, ih, List.length_cons, Finset.sum_range_succ', Finset.mul_sum, add_comm]
    congr 1
    · refine Finset.sum_congr rfl fun i _ => ?_
      rw [List.getD_cons_succ, Nat.mul_succ, pow_add]
      ring
    · simp

/-- `le_N` keeps the low N bytes of the number, and `from_le` reads them back. -/
theorem fromLE_leBytes (n v : Nat) : fromLE (leBytes n v) = v % 256 ^ n := by
  induction n generalizing v with
  | zero => simp [leBytes, fromLE, Nat.mod_one]
  | succ n ih =>
    rw [leBytes_succ, fromLE_cons, ih, BitVec.toNat_ofNat, pow_succ' 256, Nat.mod_mul]

/-- A number of at most N bytes is what `from_le` reads from its `le_N`. -/
theorem fromLE_leBytes_of_lt {n v : Nat} (h : v < 2 ^ (8 * n)) : fromLE (leBytes n v) = v := by
  rw [fromLE_leBytes, Nat.mod_eq_of_lt]
  rwa [pow_mul] at h

/-- Every byte sequence is the `le_N` of the number it stands for. -/
theorem leBytes_fromLE (b : List Byte) : leBytes b.length (fromLE b) = b := by
  induction b with
  | nil => rfl
  | cons c bs ih =>
    have hc := c.isLt
    have hhead : BitVec.ofNat 8 (fromLE (c :: bs)) = c := by
      apply BitVec.eq_of_toNat_eq
      rw [BitVec.toNat_ofNat, fromLE_cons]
      omega
    have htail : fromLE (c :: bs) / 256 = fromLE bs := by
      rw [fromLE_cons]
      omega
    rw [List.length_cons, leBytes_succ, hhead, htail, ih]

/-- Settles O1: the five clauses are the byte-order lemmas above. -/
theorem littleEndianBytesRoundTrip : Obligations.LittleEndianBytesRoundTrip :=
  ⟨leBytes_length, fun _ v _ h => leBytes_getElem? v h, fromLE_eq_sum,
    fun _ _ h => fromLE_leBytes_of_lt h, leBytes_fromLE⟩

/-! ### What a port's frame decodes to, and how its unit handles it -/

/-- The assembled request belongs to the port of its format (R69, R70). -/
theorem assembleOperands_port (m : Format) (f : Frame) : (assembleOperands m f).port = m.port := by
  cases m <;> rfl

/-- A port's frame decodes only to a request of that port (R70, R76). -/
theorem decodeRequest_port {p : Port} {f : Frame} {i : Instr} (h : decodeRequest p f = .request i) :
    i.port = p := by
  obtain ⟨-, hd⟩ | ⟨_, _, -, -, hd⟩ | ⟨_, _, _, -, -, -, -, hd⟩ | ⟨_, _, m, -, -, hp, -, hd⟩ :=
    decodeRequest_cases p f
  · cases hd.symm.trans h
  · cases hd.symm.trans h
  · cases hd.symm.trans h
  · cases hd.symm.trans h
    rw [assembleOperands_port, hp]

/-- The one operation of port M (R70). -/
theorem eq_mine_of_port_m {i : Instr} (h : i.port = .m) : ∃ b d r, i = .mine b d r := by
  cases i with
  | mine b d r => exact ⟨b, d, r, rfl⟩
  | _ => cases h

end Sys2Proof

namespace Sys2Proof.Machine

theorem answer_of_request {p : Port} {f : Frame} {i : Instr} (h : decodeRequest p f = .request i) :
    answer p f = callResponse i := by
  rw [answer, h]

theorem answer_of_error {p : Port} {f : Frame} {e : FrameError} (h : decodeRequest p f = .error e) :
    answer p f = response (errorStatus e) [] := by
  rw [answer, h]

theorem handleFrame_of_waiting_nil {p : Port} {s : State} (h : waiting p s = []) :
    handleFrame p s = .next s := by
  rw [handleFrame, h]

/-- FU takes the oldest frame and emits its answer; nothing else changes (R49, R51). -/
theorem handleFrame_f_of_waiting_cons {s : State} {f : Frame} {q : List Frame} (h : s.reqF = f :: q) :
    handleFrame .f s = .next (respond .f (answer .f f) (setWaiting .f q s)) := by
  obtain ⟨hw, -⟩ | ⟨f', q', i, hw, hd, hs⟩ | ⟨f', q', e, hw, hd, hs⟩ := handleFrame_cases .f s
  · cases hw.symm.trans h
  · cases hw.symm.trans h
    rw [hs, exec_eq_respond i _ (decodeRequest_port hd), answer_of_request hd]
  · cases hw.symm.trans h
    rw [hs, raiseError, answer_of_error hd]

/-! ### What leaves port F alone -/

/-- The two states agree on port F's channels and on the events to come. -/
def SamePortF (s t : State) : Prop := t.reqF = s.reqF ∧ t.rspF = s.rspF ∧ t.inputs = s.inputs

theorem SamePortF.refl (s : State) : SamePortF s s := ⟨rfl, rfl, rfl⟩

theorem evaluate_samePortF (s : State) : SamePortF s (evaluate s) := by
  obtain ⟨-, he⟩ | ⟨-, -, he⟩ | ⟨-, -, he⟩ := evaluate_cases s <;> rw [he] <;> exact ⟨rfl, rfl, rfl⟩

theorem deliver_samePortF (s : State) : SamePortF s (deliver s) := by
  obtain ⟨-, hd⟩ | ⟨-, hd⟩ | ⟨-, hd⟩ := deliver_cases s <;> rw [hd] <;> exact ⟨rfl, rfl, rfl⟩

/-- Handling a frame of port M goes on, and leaves port F alone: such a frame is a MINE or an error. -/
theorem handleFrame_m_samePortF (s : State) : ∃ t, handleFrame .m s = .next t ∧ SamePortF s t := by
  obtain ⟨-, hs⟩ | ⟨_, q, i, -, hd, hs⟩ | ⟨_, q, e, -, -, hs⟩ := handleFrame_cases .m s
  · exact ⟨s, hs, .refl s⟩
  · obtain ⟨h, d, r, rfl⟩ := eq_mine_of_port_m (decodeRequest_port hd)
    obtain ⟨-, hm⟩ | ⟨-, hm⟩ := execMine_cases h d r (setWaiting .m q s)
    · exact ⟨_, hs.trans hm, rfl, rfl, rfl⟩
    · exact ⟨_, hs.trans hm, rfl, rfl, rfl⟩
  · exact ⟨_, hs, rfl, rfl, rfl⟩

/-- MU's turn goes on and leaves port F alone, in every state of the miner (R52). -/
theorem muStep_samePortF (s : State) : ∃ t, muStep s = .next t ∧ SamePortF s t := by
  unfold muStep
  cases s.mstate with
  | idle => exact handleFrame_m_samePortF s
  | searching => exact ⟨_, rfl, evaluate_samePortF s⟩
  | found => exact ⟨s, rfl, .refl s⟩
  | exhausted => exact ⟨s, rfl, .refl s⟩

/-! ### Port F over a list of events -/

theorem sentOn_append (p : Port) (es es' : List Config.Event) :
    sentOn p (es ++ es') = sentOn p es ++ sentOn p es' := List.filterMap_append

/-- Over the events `es`, from `s` to `t`, port F has handled the frames `handled`: the books balance, each
turn of FU has handled one frame while any waited, and each frame handled has been answered, in order. -/
def PortFServed (es : List Config.Event) (s t : State) (handled : List Frame) : Prop :=
  s.reqF ++ sentOn .f es = handled ++ t.reqF ∧
    min s.reqF.length (es.count .fu) ≤ handled.length ∧ handled.length ≤ es.count .fu ∧
    t.rspF = s.rspF ++ handled.map (answer .f)

/-- Over no event nothing is served, whatever is to come. -/
theorem PortFServed.nil (es : List Config.Event) (s : State) : PortFServed [] s (withInputs es s) [] :=
  ⟨List.append_nil _, Nat.min_le_right _ _, Nat.le_refl _, (List.append_nil _).symm⟩

/-- Service over a first list of events and over a second one adds up. -/
theorem PortFServed.trans {es es' : List Config.Event} {s t u : State} {l l' : List Frame}
    (h : PortFServed es s t l) (h' : PortFServed es' t u l') : PortFServed (es ++ es') s u (l ++ l') := by
  obtain ⟨hbooks, hleast, hmost, hanswers⟩ := h
  obtain ⟨hbooks', hleast', hmost', hanswers'⟩ := h'
  have hlength := congrArg List.length hbooks
  refine ⟨?_, ?_, ?_, ?_⟩
  · rw [sentOn_append, ← List.append_assoc, hbooks, List.append_assoc, hbooks', List.append_assoc]
  · simp only [List.length_append, List.count_append] at hlength ⊢
    omega
  · simp only [List.length_append, List.count_append]
    omega
  · rw [hanswers', hanswers, List.map_append, List.append_assoc]

/-- An event that neither sends on port F nor is FU's turn serves nothing, if it leaves port F alone. -/
theorem SamePortF.served {s t : State} (h : SamePortF s t) {e : Config.Event} (hsent : sentOn .f [e] = [])
    (hfu : e ≠ .fu) : PortFServed [e] s t [] := by
  obtain ⟨hreq, hrsp, -⟩ := h
  refine ⟨?_, ?_, Nat.zero_le _, ?_⟩
  · rw [hsent, hreq, List.append_nil, List.nil_append]
  · rw [List.count_singleton, if_neg (by simpa using hfu)]
    exact Nat.min_le_right _ _
  · rw [hrsp, List.map_nil, List.append_nil]

/-- A frame sent on port F waits behind the others (R51, R58). -/
theorem send_f_served (f : Frame) (s : State) : PortFServed [.sendF f] s (send .f f s) [] :=
  ⟨rfl, Nat.min_le_right _ _, Nat.le_refl _, (List.append_nil _).symm⟩

/-- FU's turn handles the frame at the head of port F, and none where none waits (R49). -/
theorem fuStep_served (s : State) :
    ∃ t, fuStep s = .next t ∧ t.inputs = s.inputs ∧ PortFServed [.fu] s t (s.reqF.take 1) := by
  cases hq : s.reqF with
  | nil =>
    refine ⟨s, handleFrame_of_waiting_nil hq, rfl, ?_, ?_, Nat.zero_le _, (List.append_nil _).symm⟩
    · exact List.append_nil _
    · rw [hq]
      exact Nat.min_le_left _ _
  | cons f q =>
    refine ⟨_, handleFrame_f_of_waiting_cons hq, rfl, ?_, Nat.min_le_right _ _, Nat.le_refl _, rfl⟩
    rw [hq]
    exact List.append_nil _

/-- What one event other than a reset does at port F. -/
theorem perform_served {e : Config.Event} (he : e ≠ .reset) (s : State) :
    ∃ t handled, perform e s = .next t ∧ t.inputs = s.inputs ∧ PortFServed [e] s t handled := by
  cases e with
  | sendF f => exact ⟨_, [], rfl, rfl, send_f_served f s⟩
  | sendM f =>
    have hsame : SamePortF s (send .m f s) := ⟨rfl, rfl, rfl⟩
    exact ⟨_, [], rfl, rfl, hsame.served rfl nofun⟩
  | fu =>
    obtain ⟨t, ht, hinputs, hserved⟩ := fuStep_served s
    exact ⟨t, _, ht, hinputs, hserved⟩
  | mu =>
    obtain ⟨t, ht, hsame⟩ := muStep_samePortF s
    have ⟨_, _, hinputs⟩ := hsame
    exact ⟨t, [], ht, hinputs, hsame.served rfl nofun⟩
  | takeM =>
    have hsame := deliver_samePortF s
    have ⟨_, _, hinputs⟩ := hsame
    exact ⟨_, [], rfl, hinputs, hsame.served rfl nofun⟩
  | reset => exact absurd rfl he

/-- The whole schedule: by induction on the events, each adding what it serves to what the rest serves. -/
theorem run_served (es : List Config.Event) (s : State) (hr : Config.Event.reset ∉ es) :
    ∃ t handled, run es.length (withInputs es s) = .next t ∧ PortFServed es s t handled := by
  induction es generalizing s with
  | nil => exact ⟨_, [], rfl, .nil [] s⟩
  | cons e es ih =>
    have hre : e ≠ .reset := (List.ne_of_not_mem_cons hr).symm
    obtain ⟨t, l, ht, hinputs, hserved⟩ := perform_served hre (withInputs es s)
    have hself : withInputs es t = t := by
      rw [← hinputs.trans (withInputs_inputs es s), withInputs_self]
    obtain ⟨u, l', hu, hserved'⟩ := ih t (List.not_mem_of_not_mem_cons hr)
    refine ⟨u, l ++ l', ?_, hserved.trans hserved'⟩
    rw [List.length_cons, run_cons _ ht, ← hself, hu]

/-- Settles O53: the service of port F over the whole run. -/
theorem portFAnswersEveryRequestInOrder : Obligations.PortFAnswersEveryRequestInOrder :=
  run_served

end Sys2Proof.Machine
end

section
/-! PROOFS. The family 10_state.md: the candidate's bits (R28), the invariant of the miner's latches (R23, R26,
R27), the latches that mean nothing (R35), and what port M is owed under every schedule (R38). -/

/-! ### The candidate's number and bits -/

namespace Sys2Proof.Machine

/-- A member of a round's window is not cut to the nonce's width (R13, R14, R28). -/
theorem candidateAt_toNat (r : Round) {i : Nat} (hi : i < 2 ^ 32) :
    (candidateAt r i).toNat = r.toNat * 2 ^ 32 + i := by
  have hr := r.isLt
  rw [candidateAt, BitVec.toNat_ofNat, Nat.mod_eq_of_lt (by simp only [Config.WSHIFT]; omega)]

theorem candidateAt_round_bits (r : Round) {i : Nat} (hi : i < 2 ^ 32) :
    (candidateAt r i).extractLsb' 32 224 = r := by
  apply BitVec.eq_of_toNat_eq
  have hr := r.isLt
  rw [BitVec.extractLsb'_toNat, candidateAt_toNat r hi, Nat.shiftRight_eq_div_pow]
  omega

theorem candidateAt_gap_bits (r : Round) {i : Nat} (hi : i < 2 ^ 20) :
    (candidateAt r i).extractLsb' 20 12 = 0#12 := by
  apply BitVec.eq_of_toNat_eq
  rw [BitVec.extractLsb'_toNat, candidateAt_toNat r (by omega), Nat.shiftRight_eq_div_pow, BitVec.toNat_ofNat]
  omega

theorem candidateAt_index_bits (r : Round) (i : Index) :
    (candidateAt r i.toNat).extractLsb' 0 20 = i := by
  apply BitVec.eq_of_toNat_eq
  have hi := i.isLt
  rw [BitVec.extractLsb'_toNat, candidateAt_toNat r (by omega), Nat.shiftRight_zero]
  omega

/-- Settles O22: the four facts about a window's members, at MR and MIDX. -/
theorem candidateIsRoundThenIndex : Obligations.CandidateIsRoundThenIndex := fun s =>
  have hi : s.midx.toNat < 2 ^ 20 := s.midx.isLt
  ⟨candidateAt_toNat _ (by omega), candidateAt_round_bits _ (by omega), candidateAt_gap_bits _ hi,
    candidateAt_index_bits _ _⟩

end Sys2Proof.Machine

/-! ### What decodes is well formed -/

namespace Sys2Proof

theorem preHashField_ok {f : Frame} (h : 33 ≤ f.length) : preHashOk (preHashField f) = true :=
  decide_eq_true (slice_length f 1 33 h)

/-- A frame of legal length gives a well-formed request: its pre-hash field has 32 bytes (R64, R67, R68). -/
theorem assembleOperands_wf {m : Format} {f : Frame} (h : m.lengthOk f.length = true) :
    (assembleOperands m f).wf = true := by
  cases m with
  | N | S | D | Z => rfl
  | HN =>
    have hl : f.length = 65 := of_decide_eq_true h
    exact preHashField_ok (by omega)
  | V =>
    have hl : 65 ≤ f.length := of_decide_eq_true h
    exact preHashField_ok (by omega)
  | M =>
    have hl : f.length = 93 := of_decide_eq_true h
    exact preHashField_ok (by omega)

theorem decodeRequest_wf {p : Port} {f : Frame} {i : Instr} (h : decodeRequest p f = .request i) :
    i.wf = true := by
  obtain ⟨-, hd⟩ | ⟨_, _, -, -, hd⟩ | ⟨_, _, _, -, -, -, -, hd⟩ | ⟨_, _, m, -, -, -, hl, hd⟩ :=
    decodeRequest_cases p f
  · cases hd.symm.trans h
  · cases hd.symm.trans h
  · cases hd.symm.trans h
  · cases hd.symm.trans h
    exact assembleOperands_wf hl

end Sys2Proof

/-! ### The units' steps, case by case -/

namespace Sys2Proof.Machine

theorem handleFrame_of_request {p : Port} {s : State} {f : Frame} {q : List Frame} {i : Instr}
    (hw : waiting p s = f :: q) (hd : decodeRequest p f = .request i) :
    handleFrame p s = exec i (setWaiting p q s) := by
  simp only [handleFrame, hw, hd]

theorem handleFrame_of_error {p : Port} {s : State} {f : Frame} {q : List Frame} {e : FrameError}
    (hw : waiting p s = f :: q) (hd : decodeRequest p f = .error e) :
    handleFrame p s = .next (raiseError p e (setWaiting p q s)) := by
  simp only [handleFrame, hw, hd]

/-- All that MU's turn can do (R133, R134, R144). -/
theorem muStep_cases (s : State) :
    (s.mstate = .idle ∧ s.reqM = [] ∧ muStep s = .next s) ∨
    (s.mstate = .idle ∧ ∃ f q h d r, s.reqM = f :: q ∧ decodeRequest .m f = .request (.mine h d r) ∧
      muStep s = .next (accept h d r (setWaiting .m q s))) ∨
    (s.mstate = .idle ∧ ∃ f q e, s.reqM = f :: q ∧ decodeRequest .m f = .error e ∧
      muStep s = .next (raiseError .m e (setWaiting .m q s))) ∨
    (s.mstate = .searching ∧ muStep s = .next (evaluate s)) ∨
    ((s.mstate = .found ∨ s.mstate = .exhausted) ∧ muStep s = .next s) := by
  unfold muStep
  cases hs : s.mstate with
  | idle =>
    obtain ⟨hw, hm⟩ | ⟨f, q, i, hw, hd, hm⟩ | ⟨f, q, e, hw, hd, hm⟩ := handleFrame_cases .m s
    · exact .inl ⟨rfl, hw, hm⟩
    · obtain ⟨h, d, r, rfl⟩ := eq_mine_of_port_m (decodeRequest_port hd)
      exact .inr (.inl ⟨rfl, f, q, h, d, r, hw, hd, hm.trans (if_pos hs)⟩)
    · exact .inr (.inr (.inl ⟨rfl, f, q, e, hw, hd, hm⟩))
  | searching => exact .inr (.inr (.inr (.inl ⟨rfl, rfl⟩)))
  | found => exact .inr (.inr (.inr (.inr ⟨.inl rfl, rfl⟩)))
  | exhausted => exact .inr (.inr (.inr (.inr ⟨.inr rfl, rfl⟩)))

theorem evaluate_of_passes {s : State} (hp : passes s.mh (candidate s) s.mt = true) :
    evaluate s = { s with mseal := encodeSeal (candidate s), mstate := .found } := if_pos hp

theorem evaluate_of_last_fails {s : State} (hp : passes s.mh (candidate s) s.mt = false)
    (hi : s.midx.toNat = 2 ^ 20 - 1) : evaluate s = { s with mstate := .exhausted } := by
  rw [evaluate, hp, if_pos hi]; rfl

theorem evaluate_of_fails {s : State} (hp : passes s.mh (candidate s) s.mt = false)
    (hi : s.midx.toNat < 2 ^ 20 - 1) : evaluate s = { s with midx := s.midx + 1#20 } := by
  rw [evaluate, hp, if_neg (Nat.ne_of_lt hi)]; rfl

/-- MIDX does not wrap where EVALUATE counts it up (R26, R134). -/
theorem midx_succ_toNat {i : Index} (h : i.toNat < 2 ^ 20 - 1) : (i + 1#20).toNat = i.toNat + 1 := by
  rw [BitVec.toNat_add, BitVec.toNat_ofNat]
  omega

theorem deliver_of_pending {s : State} {f : Frame} (h : pendingResponse s = some f) :
    deliver s = { respond .m f s with mstate := .idle } := by
  rw [deliver, h]

theorem deliver_of_none_pending {s : State} (h : pendingResponse s = none) : deliver s = s := by
  rw [deliver, h]

/-! ### What leaves the miner and port M alone -/

/-- The two states agree on the miner's elements, on port M's channels and on the events to come. -/
def SameMinerSide (s t : State) : Prop :=
  SameElements s t ∧ t.reqM = s.reqM ∧ t.rspM = s.rspM ∧ t.inputs = s.inputs

theorem SameElements.refl (s : State) : SameElements s s := ⟨rfl, rfl, rfl, rfl, rfl, rfl⟩

theorem SameMinerSide.refl (s : State) : SameMinerSide s s := ⟨.refl s, rfl, rfl, rfl⟩

theorem afterEvent_sameElements (s : State) : SameElements s (afterEvent s) := by simp [SameElements]

/-- FU's turn goes on and writes no element of the miner (R52). -/
theorem fuStep_sameMinerSide (s : State) : ∃ t, fuStep s = .next t ∧ SameMinerSide s t := by
  cases hq : s.reqF with
  | nil => exact ⟨s, handleFrame_of_waiting_nil hq, .refl s⟩
  | cons f q => exact ⟨_, handleFrame_f_of_waiting_cons hq, .refl s, rfl, rfl, rfl⟩

/-! ### The invariant of the miner's latches -/

/-- One more candidate has failed. -/
theorem failsBelow_succ {h : PreHash} {t : Work} {r : Round} {n : Nat} :
    FailsBelow h t r (n + 1) ↔ FailsBelow h t r n ∧ passes h (candidateAt r n) t = false :=
  Nat.forall_lt_succ_right

/-- In Idle the invariant is the two lengths. -/
theorem Inv.of_idle {s : State} (hs : s.mstate = .idle) (hmh : s.mh.length = 32)
    (hseal : s.mseal.length = 32) : Inv s where
  mhLength := hmh
  msealLength := hseal
  searching h := nomatch hs.symm.trans h
  found h := nomatch hs.symm.trans h
  exhausted h := nomatch hs.symm.trans h

/-- The invariant speaks of the six elements only. -/
theorem Inv.of_sameElements {s t : State} (hi : Inv s) (h : SameElements s t) : Inv t := by
  obtain ⟨hst, hmh, hmt, hmr, hidx, hseal⟩ := h
  have hc : candidate t = candidate s := by rw [candidate, candidate, hmr, hidx]
  obtain ⟨hl, hl', hsearch, hfound, hexh⟩ := hi
  constructor <;> simp only [hc, ← hst, ← hmh, ← hmt, ← hmr, ← hidx, ← hseal] <;> assumption

theorem Inv.accept {s : State} (hi : Inv s) {h : PreHash} (hh : h.length = 32) (d : Difficulty) (r : Round) :
    Inv (accept h d r s) where
  mhLength := hh
  msealLength := hi.msealLength
  searching _ := fun j hj => absurd hj (Nat.not_lt_zero j)
  found h := nomatch h
  exhausted h := nomatch h

/-- EVALUATE adds the candidate it tries to those that have failed, or finds it to be the first that passes
(R134). -/
theorem Inv.evaluate {s : State} (hi : Inv s) (hs : s.mstate = .searching) : Inv (evaluate s) := by
  have hfails := hi.searching hs
  obtain ⟨hp, he⟩ | ⟨hp, hlast, he⟩ | ⟨hp, hlt, he⟩ := evaluate_cases s <;> rw [he]
  · exact ⟨hi.mhLength, encodeSeal_length _, nofun, fun _ => ⟨hfails, hp, rfl⟩, nofun⟩
  · have hall : FailsBelow s.mh s.mt s.mr (2 ^ 20) := by
      have hsucc := failsBelow_succ.2 ⟨hfails, hp⟩
      rwa [hlast] at hsucc
    exact ⟨hi.mhLength, hi.msealLength, nofun, nofun, fun _ => hall⟩
  · have hnext : FailsBelow s.mh s.mt s.mr (s.midx + 1#20).toNat := by
      rw [midx_succ_toNat hlt]
      exact failsBelow_succ.2 ⟨hfails, hp⟩
    exact ⟨hi.mhLength, hi.msealLength, fun _ => hnext, fun h => (nomatch hs.symm.trans h),
      fun h => (nomatch hs.symm.trans h)⟩

theorem Inv.deliver {s : State} (hi : Inv s) : Inv (deliver s) := by
  obtain ⟨-, hd⟩ | ⟨-, hd⟩ | ⟨-, hd⟩ := deliver_cases s <;> rw [hd]
  · exact .of_idle rfl hi.mhLength hi.msealLength
  · exact .of_idle rfl hi.mhLength hi.msealLength
  · exact hi

theorem Inv.resetEvent (s : State) : Inv (resetEvent s) :=
  .of_idle rfl (leBytes_length _ _) (leBytes_length _ _)

theorem Inv.muStep {s t : State} (hi : Inv s) (h : muStep s = .next t) : Inv t := by
  obtain ⟨-, -, hm⟩ | ⟨-, _, q, b, d, r, -, hd, hm⟩ | ⟨-, _, q, e, -, -, hm⟩ | ⟨hs, hm⟩ | ⟨-, hm⟩ :=
    muStep_cases s <;> cases hm.symm.trans h
  · exact hi
  · have hb : b.length = 32 := by simpa [Instr.wf, preHashOk] using decodeRequest_wf hd
    have hw : Inv (setWaiting .m q s) := hi.of_sameElements (.refl s)
    exact hw.accept hb d r
  · exact hi.of_sameElements (.refl s)
  · exact hi.evaluate hs
  · exact hi

/-- Every event keeps the invariant. -/
theorem Inv.perform {s t : State} (hi : Inv s) {e : Config.Event} (h : perform e s = .next t) : Inv t := by
  cases e with
  | sendF f => cases h; exact hi.of_sameElements (.refl s)
  | sendM f => cases h; exact hi.of_sameElements (.refl s)
  | fu =>
    obtain ⟨u, hu, hsame, -⟩ := fuStep_sameMinerSide s
    cases hu.symm.trans h
    exact hi.of_sameElements hsame
  | mu => exact hi.muStep h
  | takeM => cases h; exact hi.deliver
  | reset => cases h; exact .resetEvent s

/-- Settles O45: each clause is a field of the reset state. -/
theorem resetStateIsIdleAndEmpty : Obligations.ResetStateIsIdleAndEmpty :=
  ⟨rfl, rfl, rfl, rfl, rfl, rfl⟩

/-- Settles O46: MSTATE is Idle, so only the lengths count. -/
theorem latchInvariantHoldsAtReset : Obligations.LatchInvariantHoldsAtReset :=
  .of_idle rfl List.length_replicate List.length_replicate

/-- Settles O47: drawing the event leaves the elements, and the event keeps the invariant. -/
theorem everyStepKeepsTheLatchInvariant : Obligations.EveryStepKeepsTheLatchInvariant := fun s _ hi h =>
  (hi.of_sameElements (afterEvent_sameElements s)).perform h

/-! ### Latches that mean nothing are never read -/

/-- Both outcomes are next states, which differ at most in latches that mean nothing. -/
def SameMeaningNext (o o' : Host.Outcome State Fault Refusal) : Prop :=
  ∃ s t, o = .next s ∧ o' = .next t ∧ SameMeaning s t

theorem SameMeaning.next {s t : State} (h : SameMeaning s t) : SameMeaningNext (.next s) (.next t) :=
  ⟨s, t, rfl, rfl, h⟩

/-- In Idle no latch means anything. -/
theorem SameMeaning.of_idle {s t : State} (hs : s.mstate = .idle) (ht : t.mstate = .idle)
    (hc : s.reqF = t.reqF ∧ s.reqM = t.reqM ∧ s.rspF = t.rspF ∧ s.rspM = t.rspM)
    (he : s.inputs = t.inputs ∧ s.drawn = t.drawn ∧ s.waited = t.waited) : SameMeaning s t where
  mstate := hs.trans ht.symm
  searching h := nomatch hs.symm.trans h
  found h := nomatch hs.symm.trans h
  exhausted h := nomatch hs.symm.trans h
  channels := hc
  schedule := he

theorem SameMeaning.waiting_eq {s t : State} (h : SameMeaning s t) (p : Port) : waiting p s = waiting p t := by
  obtain ⟨hreqF, hreqM, -, -⟩ := h.channels
  cases p with
  | f => exact hreqF
  | m => exact hreqM

theorem SameMeaning.setWaiting {s t : State} (h : SameMeaning s t) (p : Port) (q : List Frame) :
    SameMeaning (setWaiting p q s) (setWaiting p q t) := by
  obtain ⟨hreqF, hreqM, hrsp⟩ := h.channels
  cases p with
  | f => exact ⟨h.mstate, h.searching, h.found, h.exhausted, ⟨rfl, hreqM, hrsp⟩, h.schedule⟩
  | m => exact ⟨h.mstate, h.searching, h.found, h.exhausted, ⟨hreqF, rfl, hrsp⟩, h.schedule⟩

/-- Sending is setting what waits. -/
theorem send_eq_setWaiting (p : Port) (f : Frame) (s : State) :
    send p f s = setWaiting p (waiting p s ++ [f]) s := by
  cases p <;> rfl

theorem SameMeaning.send {s t : State} (h : SameMeaning s t) (p : Port) (f : Frame) :
    SameMeaning (send p f s) (send p f t) := by
  rw [send_eq_setWaiting, send_eq_setWaiting, h.waiting_eq p]
  exact h.setWaiting p _

theorem SameMeaning.respond {s t : State} (h : SameMeaning s t) (p : Port) (f : Frame) :
    SameMeaning (respond p f s) (respond p f t) := by
  obtain ⟨hreqF, hreqM, hrspF, hrspM⟩ := h.channels
  cases p with
  | f =>
    exact ⟨h.mstate, h.searching, h.found, h.exhausted, ⟨hreqF, hreqM, congrArg (· ++ [f]) hrspF, hrspM⟩,
      h.schedule⟩
  | m =>
    exact ⟨h.mstate, h.searching, h.found, h.exhausted, ⟨hreqF, hreqM, hrspF, congrArg (· ++ [f]) hrspM⟩,
      h.schedule⟩

/-- ACCEPT writes every latch that means something in Searching (R133). -/
theorem SameMeaning.accept {s t : State} (hm : SameMeaning s t) (h : PreHash) (d : Difficulty) (r : Round) :
    SameMeaning (accept h d r s) (accept h d r t) :=
  ⟨rfl, fun _ => ⟨rfl, rfl, rfl, rfl⟩, nofun, nofun, hm.channels, hm.schedule⟩

theorem SameMeaning.candidate_eq {s t : State} (h : SameMeaning s t) (hs : s.mstate = .searching) :
    candidate s = candidate t := by
  obtain ⟨-, -, hmr, hidx⟩ := h.searching hs
  rw [candidate, candidate, hmr, hidx]

/-- EVALUATE reads only latches that mean something in Searching (R134). -/
theorem SameMeaning.evaluate {s t : State} (h : SameMeaning s t) (hs : s.mstate = .searching) :
    SameMeaning (evaluate s) (evaluate t) := by
  obtain ⟨hmh, hmt, hmr, hidx⟩ := h.searching hs
  have hc := h.candidate_eq hs
  have hp : passes t.mh (candidate t) t.mt = passes s.mh (candidate s) s.mt := by rw [hmh, hmt, hc]
  obtain ⟨hps, he⟩ | ⟨hps, hi, he⟩ | ⟨hps, hi, he⟩ := evaluate_cases s
  · rw [he, evaluate_of_passes (hp.trans hps)]
    exact ⟨rfl, nofun, fun _ => congrArg encodeSeal hc, nofun, h.channels, h.schedule⟩
  · rw [he, evaluate_of_last_fails (hp.trans hps) (hidx ▸ hi)]
    exact ⟨rfl, nofun, nofun, fun _ => hmr, h.channels, h.schedule⟩
  · rw [he, evaluate_of_fails (hp.trans hps) (hidx ▸ hi)]
    exact ⟨h.mstate, fun _ => ⟨hmh, hmt, hmr, congrArg (· + 1#20) hidx⟩, h.found, h.exhausted, h.channels,
      h.schedule⟩

/-- A response shows only latches that mean something (R35). -/
theorem SameMeaning.pendingResponse_eq {s t : State} (h : SameMeaning s t) :
    pendingResponse s = pendingResponse t := by
  unfold pendingResponse
  rw [← h.mstate]
  cases hs : s.mstate with
  | idle | searching => rfl
  | found => rw [h.found hs]
  | exhausted => rw [h.exhausted hs]

theorem SameMeaning.deliver {s t : State} (h : SameMeaning s t) : SameMeaning (deliver s) (deliver t) := by
  have hpt := h.pendingResponse_eq.symm
  cases hp : pendingResponse s with
  | none =>
    rw [deliver_of_none_pending hp, deliver_of_none_pending (hpt.trans hp)]
    exact h
  | some f =>
    rw [deliver_of_pending hp, deliver_of_pending (hpt.trans hp)]
    exact .of_idle rfl rfl (h.respond .m f).channels h.schedule

theorem SameMeaning.resetEvent {s t : State} (h : SameMeaning s t) :
    SameMeaning (resetEvent s) (resetEvent t) := by
  obtain ⟨-, -, hrsp⟩ := h.channels
  obtain ⟨hin, hdrawn, hwaited⟩ := h.schedule
  exact .of_idle rfl rfl ⟨rfl, rfl, hrsp⟩ ⟨hin, congrArg (· + 1) hdrawn, hwaited⟩

/-- Every operation reads its operands only, and MINE of the state only MSTATE. -/
theorem SameMeaning.exec {s t : State} (hm : SameMeaning s t) (i : Instr) :
    SameMeaningNext (exec i s) (exec i t) := by
  cases hp : i.port with
  | f =>
    rw [exec_eq_respond i s hp, exec_eq_respond i t hp]
    exact (hm.respond .f _).next
  | m =>
    obtain ⟨h, d, r, rfl⟩ := eq_mine_of_port_m hp
    simp only [Machine.exec, execMine, ← hm.mstate, ← hm.waiting_eq .m]
    split
    · exact (hm.accept h d r).next
    · exact (hm.setWaiting .m _).next

theorem SameMeaning.handleFrame {s t : State} (h : SameMeaning s t) (p : Port) :
    SameMeaningNext (handleFrame p s) (handleFrame p t) := by
  have hw := h.waiting_eq p
  cases hq : waiting p s with
  | nil =>
    rw [handleFrame_of_waiting_nil hq, handleFrame_of_waiting_nil (hw ▸ hq)]
    exact h.next
  | cons f q =>
    cases hd : decodeRequest p f with
    | request i =>
      rw [handleFrame_of_request hq hd, handleFrame_of_request (hw ▸ hq) hd]
      exact (h.setWaiting p q).exec i
    | error e =>
      rw [handleFrame_of_error hq hd, handleFrame_of_error (hw ▸ hq) hd]
      exact ((h.setWaiting p q).respond p _).next

theorem SameMeaning.muStep {s t : State} (h : SameMeaning s t) : SameMeaningNext (muStep s) (muStep t) := by
  unfold Machine.muStep
  rw [← h.mstate]
  cases hs : s.mstate with
  | idle => exact h.handleFrame .m
  | searching => exact (h.evaluate hs).next
  | found | exhausted => exact h.next

theorem SameMeaning.perform {s t : State} (h : SameMeaning s t) (e : Config.Event) :
    SameMeaningNext (perform e s) (perform e t) := by
  cases e with
  | sendF f => exact (h.send .f f).next
  | sendM f => exact (h.send .m f).next
  | fu => exact h.handleFrame .f
  | mu => exact h.muStep
  | takeM => exact h.deliver.next
  | reset => exact h.resetEvent.next

theorem SameMeaning.openEvent_eq {s t : State} (h : SameMeaning s t) : openEvent s = openEvent t := by
  obtain ⟨-, hdrawn, hwaited⟩ := h.schedule
  have hdue : evaluateDue s = evaluateDue t := by simp only [evaluateDue, h.mstate, hdrawn, hwaited]
  rw [openEvent, openEvent, hdue, hdrawn]

theorem SameMeaning.nextEvent_eq {s t : State} (h : SameMeaning s t) : nextEvent s = nextEvent t := by
  obtain ⟨hin, -, -⟩ := h.schedule
  rw [nextEvent, nextEvent, ← hin, h.openEvent_eq]

theorem SameMeaning.afterEvent {s t : State} (h : SameMeaning s t) :
    SameMeaning (afterEvent s) (afterEvent t) := by
  obtain ⟨hin, hdrawn, hwaited⟩ := h.schedule
  unfold Machine.afterEvent
  rw [← hin]
  split
  · exact ⟨h.mstate, h.searching, h.found, h.exhausted, h.channels, rfl, hdrawn, hwaited⟩
  · have hw : waitedAfter s = waitedAfter t := by
      rw [waitedAfter, waitedAfter, h.mstate, h.openEvent_eq, hwaited]
    exact ⟨h.mstate, h.searching, h.found, h.exhausted, h.channels, rfl, congrArg (· + 1) hdrawn, hw⟩

/-- Settles O48: both states draw the same event, and every event keeps the relation. -/
theorem latchesThatMeanNothingAreNeverRead : Obligations.LatchesThatMeanNothingAreNeverRead := by
  intro s t s' h hs
  obtain ⟨u, t', hu, ht, hm⟩ := h.afterEvent.perform (nextEvent s)
  cases hu.symm.trans hs
  exact ⟨t', by rw [step, ← h.nextEvent_eq, ht], hm⟩

/-! ### The response a call is coming to -/

/-- The response that the call in progress is coming to, by what is left of its search. -/
def owedResponse (s : State) : Option Frame :=
  match s.mstate with
  | .idle => none
  | .searching => some (mineResponse (scan s.mh s.mt s.mr (Config.WSIZE - s.midx.toNat) s.midx.toNat))
  | .found => some (mineResponse (.found s.mseal))
  | .exhausted => some (mineResponse (.exhausted s.mr))

theorem owedResponse_of_idle {s : State} (hs : s.mstate = .idle) : owedResponse s = none := by
  rw [owedResponse, hs]

theorem owedResponse_of_searching {s : State} (hs : s.mstate = .searching) :
    owedResponse s =
      some (mineResponse (scan s.mh s.mt s.mr (Config.WSIZE - s.midx.toNat) s.midx.toNat)) := by
  rw [owedResponse, hs]

/-- A pending response is the one the call was coming to (R135, R136). -/
theorem owedResponse_of_pending {s : State} {f : Frame} (h : pendingResponse s = some f) :
    owedResponse s = some f := by
  cases hs : s.mstate with
  | idle | searching =>
    rw [pendingResponse, hs] at h
    cases h
  | found | exhausted =>
    rw [pendingResponse, hs] at h
    rw [owedResponse, hs]
    exact h

/-- A call is owed the response of `mine` from its acceptance on (R133). -/
theorem owedResponse_accept (h : PreHash) (d : Difficulty) (r : Round) (s : State) :
    owedResponse (accept h d r s) = some (mineResponse (mine h d r)) :=
  owedResponse_of_searching rfl

/-- EVALUATE does one candidate's part of the search and leaves the result as it is (R137). -/
theorem owedResponse_evaluate {s : State} (hs : s.mstate = .searching) :
    owedResponse (evaluate s) = owedResponse s := by
  have hlt := s.midx.isLt
  have hleft : Config.WSIZE - s.midx.toNat = 2 ^ 20 - 1 - s.midx.toNat + 1 := by
    simp only [Config.WSIZE]; omega
  rw [owedResponse_of_searching hs, hleft]
  obtain ⟨hp, he⟩ | ⟨hp, hi, he⟩ | ⟨hp, hi, he⟩ := evaluate_cases s <;> rw [he]
  · rw [scan_succ_of_passes _ hp]
    rfl
  · rw [scan_succ_of_fails _ hp, hi]
    rfl
  · have hs' : { s with midx := s.midx + 1#20 }.mstate = .searching := hs
    have hleft' : Config.WSIZE - (s.midx.toNat + 1) = 2 ^ 20 - 1 - s.midx.toNat := by
      simp only [Config.WSIZE]; omega
    rw [owedResponse_of_searching hs', midx_succ_toNat hi, hleft', scan_succ_of_fails _ hp]

theorem owedResponse_of_sameElements {s t : State} (h : SameElements s t) :
    owedResponse t = owedResponse s := by
  obtain ⟨hst, hmh, hmt, hmr, hidx, hseal⟩ := h
  simp only [owedResponse, hst, hmh, hmt, hmr, hidx, hseal]

/-! ### Port M over a list of events -/

/-- The frames sent on port M and not yet answered, in order: those that wait and, during a call, before them
the one in progress, whose answer is what the call is coming to. -/
def Outstanding (s : State) (l : List Frame) : Prop :=
  (s.mstate = .idle ∧ l = s.reqM) ∨ ∃ f, l = f :: s.reqM ∧ owedResponse s = some (answer .m f)

/-- Over the events `es`, from `s` with the frames `l` outstanding to `t` with `l'` outstanding, port M has
answered the frames `handled`: the books balance, so that no frame is lost or overtakes another (R38, R58), and
each frame handled has got its answer (R137, R139). -/
def PortMServed (es : List Config.Event) (s t : State) (l handled l' : List Frame) : Prop :=
  l ++ sentOn .m es = handled ++ l' ∧ t.rspM = s.rspM ++ handled.map (answer .m) ∧ Outstanding t l'

/-- Service over a first list of events and over a second one adds up. -/
theorem PortMServed.trans {es es' : List Config.Event} {s t u : State} {l l' l'' k k' : List Frame}
    (h : PortMServed es s t l k l') (h' : PortMServed es' t u l' k' l'') :
    PortMServed (es ++ es') s u l (k ++ k') l'' := by
  obtain ⟨hbooks, hanswers, -⟩ := h
  obtain ⟨hbooks', hanswers', ho⟩ := h'
  refine ⟨?_, ?_, ho⟩
  · rw [sentOn_append, ← List.append_assoc, hbooks, List.append_assoc, hbooks', List.append_assoc]
  · rw [hanswers', hanswers, List.map_append, List.append_assoc]

/-- An event that sends nothing on port M and leaves the frames outstanding as they are answers nothing. -/
theorem PortMServed.of_outstanding {e : Config.Event} {s t : State} {l : List Frame}
    (hsent : sentOn .m [e] = []) (hrsp : t.rspM = s.rspM) (ht : Outstanding t l) :
    PortMServed [e] s t l [] l :=
  ⟨by rw [hsent, List.append_nil, List.nil_append], by rw [hrsp, List.map_nil, List.append_nil], ht⟩

theorem Outstanding.of_sameMinerSide {s t : State} {l : List Frame} (ho : Outstanding s l)
    (h : SameMinerSide s t) : Outstanding t l := by
  obtain ⟨hsame, hreq, -, -⟩ := h
  have ⟨hst, _⟩ := hsame
  simpa only [Outstanding, hst, hreq, owedResponse_of_sameElements hsame] using ho

theorem SameMinerSide.served {s t : State} (h : SameMinerSide s t) {l : List Frame} (ho : Outstanding s l)
    {e : Config.Event} (hsent : sentOn .m [e] = []) : PortMServed [e] s t l [] l :=
  have ⟨_, _, hrsp, _⟩ := h
  .of_outstanding hsent hrsp (ho.of_sameMinerSide h)

/-- In Idle the outstanding frames are those that wait. -/
theorem Outstanding.eq_reqM {s : State} {l : List Frame} (ho : Outstanding s l) (hs : s.mstate = .idle) :
    l = s.reqM := by
  obtain ⟨-, hl⟩ | ⟨f, -, hf⟩ := ho
  · exact hl
  · cases (owedResponse_of_idle hs).symm.trans hf

/-- During a call the first outstanding frame is the one whose answer is owed. -/
theorem Outstanding.eq_cons {s : State} {l : List Frame} {b : Frame} (ho : Outstanding s l)
    (hb : owedResponse s = some b) : ∃ f, l = f :: s.reqM ∧ b = answer .m f := by
  obtain ⟨hs, -⟩ | ⟨f, hl, hf⟩ := ho
  · cases (owedResponse_of_idle hs).symm.trans hb
  · exact ⟨f, hl, Option.some.inj (hb.symm.trans hf)⟩

/-- A frame sent on port M is outstanding behind the others (R58, R145). -/
theorem send_m_served {s : State} {l : List Frame} (f : Frame) (ho : Outstanding s l) :
    PortMServed [.sendM f] s (send .m f s) l [] (l ++ [f]) := by
  refine ⟨rfl, (List.append_nil _).symm, ?_⟩
  obtain ⟨hs, rfl⟩ | ⟨g, rfl, hg⟩ := ho
  · exact .inl ⟨hs, rfl⟩
  · exact .inr ⟨g, rfl, hg⟩

theorem evaluate_portM (s : State) :
    (evaluate s).reqM = s.reqM ∧ (evaluate s).rspM = s.rspM ∧ (evaluate s).inputs = s.inputs := by
  obtain ⟨-, he⟩ | ⟨-, -, he⟩ | ⟨-, -, he⟩ := evaluate_cases s <;> rw [he] <;> exact ⟨rfl, rfl, rfl⟩

/-- MU's turn: a MINE taken in Idle becomes the frame in progress, a bad frame is answered, and EVALUATE leaves
what is owed. -/
theorem muStep_served {s : State} {l : List Frame} (ho : Outstanding s l) :
    ∃ t handled l', muStep s = .next t ∧ t.inputs = s.inputs ∧ PortMServed [.mu] s t l handled l' := by
  obtain ⟨-, -, hm⟩ | ⟨hs, f, q, b, d, r, hq, hd, hm⟩ | ⟨hs, f, q, e, hq, hd, hm⟩ | ⟨hs, hm⟩ | ⟨-, hm⟩ :=
    muStep_cases s
  · exact ⟨s, [], l, hm, rfl, (SameMinerSide.refl s).served ho rfl⟩
  · have howed : owedResponse (accept b d r (setWaiting .m q s)) = some (answer .m f) := by
      rw [owedResponse_accept, answer_of_request hd]; rfl
    have ho' : Outstanding (accept b d r (setWaiting .m q s)) l :=
      .inr ⟨f, (ho.eq_reqM hs).trans hq, howed⟩
    exact ⟨_, [], l, hm, rfl, .of_outstanding rfl rfl ho'⟩
  · refine ⟨_, [f], q, hm, rfl, ?_, ?_, .inl ⟨hs, rfl⟩⟩
    · rw [ho.eq_reqM hs, hq]
      exact List.append_nil _
    · rw [List.map_singleton, answer_of_error hd]
      rfl
  · obtain ⟨hreq, hrsp, hin⟩ := evaluate_portM s
    obtain ⟨f, hl, hf⟩ := ho.eq_cons (owedResponse_of_searching hs)
    have howed := (owedResponse_evaluate hs).trans (owedResponse_of_searching hs)
    exact ⟨_, [], l, hm, hin, .of_outstanding rfl hrsp (.inr ⟨f, by rw [hl, hreq], by rw [howed, hf]⟩)⟩
  · exact ⟨s, [], l, hm, rfl, (SameMinerSide.refl s).served ho rfl⟩

/-- DELIVER answers the frame in progress, and with no response pending nothing (R135, R136). -/
theorem deliver_served {s : State} {l : List Frame} (ho : Outstanding s l) :
    ∃ handled l', (deliver s).inputs = s.inputs ∧ PortMServed [.takeM] s (deliver s) l handled l' := by
  cases hp : pendingResponse s with
  | none =>
    rw [deliver_of_none_pending hp]
    exact ⟨[], l, rfl, (SameMinerSide.refl s).served ho rfl⟩
  | some b =>
    obtain ⟨f, rfl, rfl⟩ := ho.eq_cons (owedResponse_of_pending hp)
    rw [deliver_of_pending hp]
    exact ⟨[f], s.reqM, rfl, List.append_nil _, rfl, .inl ⟨rfl, rfl⟩⟩

/-- What one event other than a reset does at port M. -/
theorem perform_portMServed {e : Config.Event} (he : e ≠ .reset) {s : State} {l : List Frame}
    (ho : Outstanding s l) :
    ∃ t handled l', perform e s = .next t ∧ t.inputs = s.inputs ∧ PortMServed [e] s t l handled l' := by
  cases e with
  | sendF f =>
    have hsame : SameMinerSide s (send .f f s) := ⟨.refl s, rfl, rfl, rfl⟩
    exact ⟨_, [], l, rfl, rfl, hsame.served ho rfl⟩
  | sendM f => exact ⟨_, [], _, rfl, rfl, send_m_served f ho⟩
  | fu =>
    obtain ⟨t, ht, hsame⟩ := fuStep_sameMinerSide s
    have ⟨_, _, _, hinputs⟩ := hsame
    exact ⟨t, [], l, ht, hinputs, hsame.served ho rfl⟩
  | mu => exact muStep_served ho
  | takeM =>
    obtain ⟨handled, l', hinputs, hserved⟩ := deliver_served ho
    exact ⟨_, handled, l', rfl, hinputs, hserved⟩
  | reset => exact absurd rfl he

/-- The whole schedule: by induction on the events, each adding what it answers to what the rest answers. -/
theorem run_portMServed (es : List Config.Event) {s : State} {l : List Frame}
    (hr : Config.Event.reset ∉ es) (ho : Outstanding s l) :
    ∃ t handled l', run es.length (withInputs es s) = .next t ∧ PortMServed es s t l handled l' := by
  induction es generalizing s l with
  | nil => exact ⟨_, [], l, rfl, List.append_nil _, (List.append_nil _).symm, ho⟩
  | cons e es ih =>
    have hre : e ≠ .reset := (List.ne_of_not_mem_cons hr).symm
    have ho' : Outstanding (withInputs es s) l := ho
    obtain ⟨t, k, l', ht, hinputs, hserved⟩ := perform_portMServed hre ho'
    have hself : withInputs es t = t := by
      rw [← hinputs.trans (withInputs_inputs es s), withInputs_self]
    have ⟨_, _, hot⟩ := hserved
    obtain ⟨u, k', l'', hu, hserved'⟩ := ih (List.not_mem_of_not_mem_cons hr) hot
    refine ⟨u, k ++ k', l'', ?_, hserved.trans hserved'⟩
    rw [List.length_cons, run_cons _ ht, ← hself, hu]

/-- Settles O54: from an idle miner the outstanding frames are those that wait; at the end they are those that
wait, or the frame in progress before them. -/
theorem portMAnswersEveryRequestInOrder : Obligations.PortMAnswersEveryRequestInOrder := by
  intro es s hr hs
  obtain ⟨t, handled, l, ht, hbooks, hanswers, ho⟩ := run_portMServed es hr (.inl ⟨hs, rfl⟩)
  refine ⟨t, handled, ht, hanswers, ?_⟩
  obtain ⟨hi, rfl⟩ | ⟨f, rfl, hf⟩ := ho
  · exact .inl ⟨hi, hbooks⟩
  · have hbusy : t.mstate ≠ .idle := fun hi => nomatch (owedResponse_of_idle hi).symm.trans hf
    exact .inr ⟨hbusy, f, hbooks, fun b hb => Option.some.inj ((owedResponse_of_pending hb).symm.trans hf)⟩

end Sys2Proof.Machine
end

section
/-! PROOFS. The family 20_memory.md: frames queue on their port and are run one at a time (R49, R51, R58), the two
ports do not depend on each other (R52), and a seal cut above NB bytes is answered as the whole one (R59). -/

/-! ### The step of the next event -/

namespace Sys2Proof.Machine

/-- The step performs the event that comes next (R7, R8). -/
theorem step_of_nextEvent {s : State} {e : Config.Event} (h : nextEvent s = e) :
    step s = perform e (afterEvent s) :=
  congrArg (perform · (afterEvent s)) h

/-- Settles O42: the step sends the frame, and drawing the event leaves the frames that wait. -/
theorem sentFramesQueueInOrder : Obligations.SentFramesQueueInOrder := by
  constructor
  · intro s f he
    rw [step_of_nextEvent he, ← afterEvent_reqF s]
    rfl
  · intro s f he
    rw [step_of_nextEvent he, ← afterEvent_reqM s]
    rfl

/-- An idle MU's turn handles the oldest frame on port M (R133). -/
theorem muStep_of_idle {s : State} (hs : s.mstate = .idle) : muStep s = handleFrame .m s := by
  unfold muStep
  rw [hs]

/-- Settles O32: the unit's turn handles the oldest frame, which the drawn event leaves at the head. -/
theorem stepRunsTheDecodedRequest : Obligations.StepRunsTheDecodedRequest := by
  constructor
  · intro s f q i he hq hd
    have hw : waiting .f (afterEvent s) = f :: q := (afterEvent_reqF s).trans hq
    rw [step_of_nextEvent he]
    exact handleFrame_of_request hw hd
  · intro s f q i he hs hq hd
    have hw : waiting .m (afterEvent s) = f :: q := (afterEvent_reqM s).trans hq
    have hidle : (afterEvent s).mstate = .idle := (afterEvent_mstate s).trans hs
    rw [step_of_nextEvent he]
    exact (muStep_of_idle hidle).trans (handleFrame_of_request hw hd)

/-! ### The ports are independent -/

theorem SameElements.trans {s t u : State} (h : SameElements s t) (h' : SameElements t u) :
    SameElements s u := by
  obtain ⟨hst, hmh, hmt, hmr, hidx, hseal⟩ := h
  obtain ⟨hst', hmh', hmt', hmr', hidx', hseal'⟩ := h'
  exact ⟨hst.trans hst', hmh.trans hmh', hmt.trans hmt', hmr.trans hmr', hidx.trans hidx', hseal.trans hseal'⟩

/-- FU's step takes the oldest frame of port F, if one waits, and emits its answer: what it does there is a
function of the frames that wait on port F (R49, R51). -/
theorem step_fu_portF {s t : State} (he : nextEvent s = .fu) (h : step s = .next t) :
    s.reqF = s.reqF.take 1 ++ t.reqF ∧ t.rspF = s.rspF ++ (s.reqF.take 1).map (answer .f) := by
  obtain ⟨u, hu, -, hbooks, -, -, hanswers⟩ := fuStep_served (afterEvent s)
  cases (hu.symm.trans (step_of_nextEvent he).symm).trans h
  rw [afterEvent_reqF] at hbooks hanswers
  rw [afterEvent_rspF] at hanswers
  exact ⟨(List.append_nil _).symm.trans hbooks, hanswers⟩

/-- FU's step writes no element of the miner and leaves port M alone (R52). -/
theorem step_fu_minerSide {s t : State} (he : nextEvent s = .fu) (h : step s = .next t) :
    SameElements s t ∧ t.reqM = s.reqM ∧ t.rspM = s.rspM := by
  obtain ⟨u, hu, hsame, hreq, hrsp, -⟩ := fuStep_sameMinerSide (afterEvent s)
  cases (hu.symm.trans (step_of_nextEvent he).symm).trans h
  exact ⟨(afterEvent_sameElements s).trans hsame, hreq.trans (afterEvent_reqM s),
    hrsp.trans (afterEvent_rspM s)⟩

/-- MU's turn, the host's taking of a response and a frame sent on port M leave port F alone (R52). -/
theorem perform_portM_samePortF {e : Config.Event} (he : e = .mu ∨ e = .takeM ∨ ∃ f, e = .sendM f)
    {s t : State} (h : perform e s = .next t) : SamePortF s t := by
  obtain rfl | rfl | ⟨f, rfl⟩ := he
  · obtain ⟨u, hu, hsame⟩ := muStep_samePortF s
    cases hu.symm.trans h
    exact hsame
  · cases h
    exact deliver_samePortF s
  · cases h
    exact ⟨rfl, rfl, rfl⟩

/-- Settles O41: FU's step depends on port F's frames only and leaves the miner's side; an event of port M
leaves port F. -/
theorem portsAreIndependent : Obligations.PortsAreIndependent := by
  refine ⟨?_, fun s t => step_fu_minerSide, ?_⟩
  · intro s s' t t' he he' hreq h h'
    obtain ⟨hbooks, hanswers⟩ := step_fu_portF he h
    obtain ⟨hbooks', hanswers'⟩ := step_fu_portF he' h'
    rw [← hreq] at hbooks' hanswers'
    exact ⟨_, hanswers, hanswers', List.append_cancel_left (hbooks.symm.trans hbooks')⟩
  · intro s t he h
    obtain ⟨hreq, hrsp, -⟩ := perform_portM_samePortF he h
    exact ⟨hreq.trans (afterEvent_reqF s), hrsp.trans (afterEvent_rspF s)⟩

end Sys2Proof.Machine

/-! ### What an encoded seal decodes to -/

namespace Sys2Proof

/-- The encoded frame of a well-formed request has the shape its port accepts (R60 to R70). -/
theorem encodedShape (i : Instr) : Laws.EncodedShape.Statement i := by
  cases i with
  | encode n => exact Laws.EncodedShape.encode n
  | decode s => exact Laws.EncodedShape.decode s
  | checksum h n => exact Laws.EncodedShape.checksum h n
  | t2t d => exact Laws.EncodedShape.t2t d
  | getdiff => exact Laws.EncodedShape.getdiff
  | verify h s d => exact Laws.EncodedShape.verify h s d
  | mine h d r => exact Laws.EncodedShape.mine h d r

/-- The encoded frame of a well-formed request passes the decoder's checks: what decodes is what its format
reads from it (R76). -/
theorem decodeRequest_encodeRequest_eq_assemble {i : Instr} (hi : i.wf = true) :
    decodeRequest i.port (encodeRequest i) = .request (assembleOperands i.format (encodeRequest i)) := by
  obtain ⟨operands, hf, hformat, hport, hlength⟩ := encodedShape i hi
  rw [hf] at hlength ⊢
  simp only [decodeRequest, hformat, hport, hlength, if_true]

/-- The slice that starts where the first part of a frame ends is the rest of the frame. -/
theorem slice_append_to_end (l f : List Byte) : slice (l ++ f) l.length (l ++ f).length = f := by
  rw [slice, List.take_length, List.drop_left]

theorem decodeRequest_decodeFrame (b : Seal) : decodeRequest .f (0x02#8 :: b) = .request (.decode b) := by
  have hseal : slice (0x02#8 :: b) 1 (0x02#8 :: b).length = b := slice_append_to_end [0x02#8] b
  have hoperands : assembleOperands .S (0x02#8 :: b) = .decode b := congrArg Instr.decode hseal
  exact (decodeRequest_encodeRequest_eq_assemble (i := .decode b) rfl).trans
    (congrArg Decoded.request hoperands)

/-- The seal field of a VERIFY frame is all that follows the pre-hash and the difficulty (R67). -/
theorem sealField_of_verifyFrame {h : PreHash} (hh : h.length = 32) (b : Seal) (d : Difficulty) :
    slice (encodeRequest (.verify h b d)) 65 (encodeRequest (.verify h b d)).length = b := by
  have hbefore : (0x06#8 :: (h ++ leBytes 32 d.toNat)).length = 65 := by
    rw [List.length_cons, List.length_append, leBytes_length, hh]
  rw [← hbefore]
  exact slice_append_to_end (0x06#8 :: (h ++ leBytes 32 d.toNat)) b

/-- An encoded VERIFY decodes to a VERIFY of the same seal. -/
theorem decodeRequest_verifyFrame {h : PreHash} (hh : h.length = 32) (b : Seal) (d : Difficulty) :
    ∃ h' d', decodeRequest .f (encodeRequest (.verify h b d)) = .request (.verify h' b d') := by
  have hwf : (Instr.verify h b d).wf = true := decide_eq_true hh
  have hdecode := decodeRequest_encodeRequest_eq_assemble hwf
  refine ⟨preHashField (encodeRequest (.verify h b d)), difficultyField (encodeRequest (.verify h b d)) 33,
    hdecode.trans (congrArg Decoded.request ?_)⟩
  exact congrArg (Instr.verify _ · _) (sealField_of_verifyFrame hh b d)

end Sys2Proof

/-! ### A seal of the wrong length -/

namespace Sys2Proof.Machine

theorem decodeSeal_of_length_ne {b : Seal} (hb : b.length ≠ 32) : decodeSeal b = none := if_neg hb

theorem decodeResponse_of_length_ne {b : Seal} (hb : b.length ≠ 32) : decodeResponse b = [0x01#8] := by
  unfold decodeResponse
  rw [decodeSeal_of_length_ne hb]
  rfl

theorem verify_of_length_ne (h : PreHash) {b : Seal} (hb : b.length ≠ 32) (d : Difficulty) :
    verify h b d = false := by
  unfold verify
  rw [decodeSeal_of_length_ne hb]

/-- A DECODE frame whose seal is not NB bytes long is answered NONE (R93). -/
theorem answer_decodeFrame_of_length_ne {b : Seal} (hb : b.length ≠ 32) :
    answer .f (0x02#8 :: b) = [0x01#8] :=
  (answer_of_request (decodeRequest_decodeFrame b)).trans (decodeResponse_of_length_ne hb)

/-- A VERIFY frame whose seal is not NB bytes long is answered false (R120, R121). -/
theorem answer_verifyFrame_of_length_ne {h : PreHash} (hh : h.length = 32) {b : Seal} (hb : b.length ≠ 32)
    (d : Difficulty) : answer .f (encodeRequest (.verify h b d)) = [0x00#8, 0x00#8] := by
  obtain ⟨h', d', hd⟩ := decodeRequest_verifyFrame hh b d
  have hfalse : verify h' b d' = false := verify_of_length_ne h' hb d'
  exact (answer_of_request hd).trans (congrArg (fun v => response .ok [boolByte v]) hfalse)

/-- A seal longer than NB bytes is not NB bytes long, nor is what stays of it when it is cut above NB. -/
theorem length_ne_of_longer {b : Seal} {k : Nat} (hb : 32 < b.length) (hk : 32 < k) :
    (b.take k).length ≠ 32 ∧ b.length ≠ 32 := by
  rw [List.length_take]
  omega

/-- Settles O6: neither the cut seal nor the whole one is NB bytes long. -/
theorem truncatedSealIsAnsweredAlike : Obligations.TruncatedSealIsAnsweredAlike := by
  constructor
  · intro b k hb hk
    obtain ⟨hcut, hwhole⟩ := length_ne_of_longer hb hk
    exact ⟨answer_decodeFrame_of_length_ne hcut, answer_decodeFrame_of_length_ne hwhole⟩
  · intro h d b k hh hb hk
    obtain ⟨hcut, hwhole⟩ := length_ne_of_longer hb hk
    exact ⟨answer_verifyFrame_of_length_ne hh hcut d, answer_verifyFrame_of_length_ne hh hwhole d⟩

end Sys2Proof.Machine
end

section
/-! PROOFS. The family 30_encoding.md: decoding and encoding undo each other (R60 to R76), the order of the
decoder's checks (R76), the responses and their statuses (R61, R71, R73), and requests as they are written (R80). -/

/-! ### The fields of a frame -/

namespace Sys2Proof

/-- The slice over the place of a part of a frame is that part. -/
theorem slice_of_append {f l b r : List Byte} {x y : Nat} (hf : f = l ++ b ++ r) (hl : l.length = x)
    (hb : x + b.length = y) : slice f x y = b := by
  have hlb : (l ++ b).length = y := by rw [List.length_append, hl, hb]
  rw [hf, slice, ← hlb, List.take_left, ← hl, List.drop_left]

/-- Two slices, the second beginning where the first ends, make one. -/
theorem slice_append_slice (f : Frame) {a b c : Nat} (hab : a ≤ b) (hbc : b ≤ c) :
    slice f a b ++ slice f b c = slice f a c := by
  have hcut : (f.take c).take b = f.take b := by rw [List.take_take, Nat.min_eq_left hbc]
  have hdrop : ((f.take c).drop a).drop (b - a) = (f.take c).drop b := by
    rw [List.drop_drop, Nat.add_sub_cancel' hab]
  rw [slice, slice, slice, ← hcut, List.drop_take, ← hdrop, List.take_append_drop]

/-- A number of n bytes keeps its value at a width of 8n bits. -/
theorem toNat_ofNat_fromLE {b : List Byte} {w n : Nat} (hw : w = 8 * n) (hb : b.length = n) :
    (BitVec.ofNat w (fromLE b)).toNat = fromLE b := by
  have hlt : fromLE b < 256 ^ b.length := fromLE_lt b
  rw [BitVec.toNat_ofNat, Nat.mod_eq_of_lt]
  rwa [hb, show 256 = 2 ^ 8 from rfl, ← pow_mul, ← hw] at hlt

/-- A field of n bytes is what its value is written as. -/
theorem leBytes_ofNat_fromLE {b : List Byte} {w n : Nat} (hw : w = 8 * n) (hb : b.length = n) :
    leBytes n (BitVec.ofNat w (fromLE b)).toNat = b := by
  rw [toNat_ofNat_fromLE hw hb, ← hb, leBytes_fromLE]

/-- A value of 8n bits is read back from its n bytes. -/
theorem fromLE_leBytes_toNat {w n : Nat} (hw : w = 8 * n) (v : BitVec w) :
    fromLE (leBytes n v.toNat) = v.toNat :=
  fromLE_leBytes_of_lt (hw ▸ v.isLt)

theorem ofNat_fromLE_leBytes {w n : Nat} (hw : w = 8 * n) (v : BitVec w) :
    BitVec.ofNat w (fromLE (leBytes n v.toNat)) = v := by
  rw [fromLE_leBytes_toNat hw, BitVec.ofNat_toNat, BitVec.setWidth_eq]

theorem preHashField_of_append {f r : List Byte} {op : Byte} {h : PreHash} (hf : f = op :: (h ++ r))
    (hh : h.length = 32) : preHashField f = h :=
  slice_of_append (l := [op]) hf rfl (by simp [hh])

/-- The number field over the place of a value's bytes has that value. -/
theorem numberField_of_append {f l r : List Byte} {a c w n : Nat} {v : BitVec w} (hw : w = 8 * n)
    (hf : f = l ++ leBytes n v.toNat ++ r) (hl : l.length = a) (hc : a + n = c) :
    BitVec.ofNat w (fromLE (slice f a c)) = v := by
  rw [slice_of_append hf hl (by rwa [leBytes_length]), ofNat_fromLE_leBytes hw]

theorem nonceField_of_append {f l r : List Byte} {a : Nat} {n : Nonce}
    (hf : f = l ++ leBytes 32 n.toNat ++ r) (hl : l.length = a) : nonceField f a = n :=
  numberField_of_append rfl hf hl rfl

theorem difficultyField_of_append {f l r : List Byte} {a : Nat} {d : Difficulty}
    (hf : f = l ++ leBytes 32 d.toNat ++ r) (hl : l.length = a) : difficultyField f a = d :=
  numberField_of_append rfl hf hl rfl

theorem roundField_of_append {f l : List Byte} {v : Round} (hf : f = l ++ leBytes 28 v.toNat)
    (hl : l.length = 65) : roundField f = v :=
  numberField_of_append rfl (hf.trans (List.append_nil _).symm) hl rfl

/-- The value of a number field within the frame is written as the field's bytes. -/
theorem leBytes_numberField {f : Frame} {a c w n : Nat} (hw : w = 8 * n) (hc : a + n = c)
    (h : c ≤ f.length) : leBytes n (BitVec.ofNat w (fromLE (slice f a c))).toNat = slice f a c :=
  leBytes_ofNat_fromLE hw (by rw [slice_length f a c h, ← hc, Nat.add_sub_cancel_left])

theorem leBytes_nonceField {f : Frame} {a : Nat} (h : a + 32 ≤ f.length) :
    leBytes 32 (nonceField f a).toNat = slice f a (a + 32) :=
  leBytes_numberField rfl rfl h

theorem leBytes_difficultyField {f : Frame} {a : Nat} (h : a + 32 ≤ f.length) :
    leBytes 32 (difficultyField f a).toNat = slice f a (a + 32) :=
  leBytes_numberField rfl rfl h

theorem leBytes_roundField {f : Frame} (h : 93 ≤ f.length) :
    leBytes 28 (roundField f).toNat = slice f 65 93 :=
  leBytes_numberField rfl rfl h

/-! ### Decoding undoes encoding -/

/-- Reading an encoded frame by its format gives the request: each operand's field stands where the format says
(R62 to R68, R72). -/
theorem assembleOperands_encodeRequest {i : Instr} (hi : i.wf = true) :
    assembleOperands i.format (encodeRequest i) = i := by
  cases i with
  | encode n =>
    exact congrArg Instr.encode (nonceField_of_append (l := [0x01#8]) (List.append_nil _).symm rfl)
  | decode b => exact congrArg Instr.decode (slice_append_to_end [0x02#8] b)
  | checksum h n =>
    have hh : h.length = 32 := of_decide_eq_true hi
    have hpre : preHashField (encodeRequest (.checksum h n)) = h := preHashField_of_append rfl hh
    have hnonce : nonceField (encodeRequest (.checksum h n)) 33 = n :=
      nonceField_of_append (l := 0x03#8 :: h) (List.append_nil _).symm (by rw [List.length_cons, hh])
    exact congrArg₂ Instr.checksum hpre hnonce
  | t2t d =>
    exact congrArg Instr.t2t (difficultyField_of_append (l := [0x04#8]) (List.append_nil _).symm rfl)
  | getdiff => rfl
  | verify h b d =>
    have hh : h.length = 32 := of_decide_eq_true hi
    have hpre : preHashField (encodeRequest (.verify h b d)) = h :=
      preHashField_of_append (congrArg (List.cons _) (List.append_assoc _ _ _)) hh
    have hdiff : difficultyField (encodeRequest (.verify h b d)) 33 = d :=
      difficultyField_of_append (l := 0x06#8 :: h) rfl (by rw [List.length_cons, hh])
    have hseal := sealField_of_verifyFrame hh b d
    exact (congrArg₂ (Instr.verify · · _) hpre hseal).trans (congrArg (Instr.verify h b) hdiff)
  | mine h d r =>
    have hh : h.length = 32 := of_decide_eq_true hi
    have hpre : preHashField (encodeRequest (.mine h d r)) = h :=
      preHashField_of_append (congrArg (List.cons _) (List.append_assoc _ _ _)) hh
    have hdiff : difficultyField (encodeRequest (.mine h d r)) 33 = d :=
      difficultyField_of_append (l := 0x07#8 :: h) rfl (by rw [List.length_cons, hh])
    have hround : roundField (encodeRequest (.mine h d r)) = r :=
      roundField_of_append (l := 0x07#8 :: (h ++ leBytes 32 d.toNat)) rfl (by simp [hh])
    exact (congrArg₂ (Instr.mine · · _) hpre hdiff).trans (congrArg (Instr.mine h d) hround)

/-- Settles O2: the encoded frame passes the decoder's checks, and reading its fields gives the operands. -/
theorem decodeUndoesEncode : Obligations.DecodeUndoesEncode := fun _ hi =>
  (decodeRequest_encodeRequest_eq_assemble hi).trans
    (congrArg Decoded.request (assembleOperands_encodeRequest hi))

/-- A frame written out is decoded by finding the request it is the encoding of. -/
theorem decodeRequest_of_encodeRequest_eq {i : Instr} {f : Frame} (hi : i.wf = true)
    (hf : encodeRequest i = f) : decodeRequest i.port f = .request i :=
  hf ▸ decodeUndoesEncode i hi

/-- Settles O5: each frame is the encoding of the request it stands for. -/
theorem writtenFramesDecodeAsWritten : Obligations.WrittenFramesDecodeAsWritten :=
  ⟨decodeRequest_of_encodeRequest_eq (i := .encode 0x0102#256) rfl (by decide),
    decodeRequest_decodeFrame [0x02#8, 0x01#8],
    decodeRequest_of_encodeRequest_eq (i := .checksum (List.replicate 32 0xFF#8) 0x80#256) rfl (by decide),
    decodeRequest_of_encodeRequest_eq (i := .t2t 1000000000#256) rfl (by decide),
    decodeRequest_of_encodeRequest_eq (i := .getdiff) rfl rfl,
    decodeRequest_of_encodeRequest_eq (i := .verify (List.replicate 32 0x11#8) [0x55#8] 496#256) rfl (by decide),
    decodeRequest_of_encodeRequest_eq (i := .mine (List.replicate 32 0x11#8) 496#256 5#224) rfl (by decide)⟩

/-! ### Encoding undoes decoding -/

/-- The operation of a format has the opcode that the opcode map gives the format (R69). -/
theorem assembleOperands_opcode {op : Byte} {m : Format} (h : formatOf op = some m) (f : Frame) :
    (assembleOperands m f).opcode = op := by
  obtain ⟨rfl, rfl⟩ | ⟨rfl, rfl⟩ | ⟨rfl, rfl⟩ | ⟨rfl, rfl⟩ | ⟨rfl, rfl⟩ | ⟨rfl, rfl⟩ | ⟨rfl, rfl⟩ :=
    formatOf_eq_some h <;> rfl

/-- The operands read from a frame of legal length are written as all its bytes after byte 0: the fields of a
format lie side by side and end with the frame (R60, R75). -/
theorem encodeOperands_assembleOperands {m : Format} {f : Frame} (h : m.lengthOk f.length = true) :
    encodeOperands (assembleOperands m f) = slice f 1 f.length := by
  cases m with
  | N =>
    have hl : f.length = 33 := of_decide_eq_true h
    rw [hl]
    exact leBytes_nonceField hl.ge
  | S => rfl
  | HN =>
    have hl : f.length = 65 := of_decide_eq_true h
    rw [hl]
    calc preHashField f ++ leBytes 32 (nonceField f 33).toNat
      _ = slice f 1 33 ++ slice f 33 65 := by rw [leBytes_nonceField hl.ge]; rfl
      _ = slice f 1 65 := slice_append_slice f (by decide) (by decide)
  | D =>
    have hl : f.length = 33 := of_decide_eq_true h
    rw [hl]
    exact leBytes_difficultyField hl.ge
  | Z =>
    have hl : f.length = 1 := of_decide_eq_true h
    have hnone : slice f 1 1 = [] := List.eq_nil_of_length_eq_zero (slice_length f 1 1 hl.ge)
    rw [hl, hnone]
    rfl
  | V =>
    have hl : 65 ≤ f.length := of_decide_eq_true h
    calc preHashField f ++ leBytes 32 (difficultyField f 33).toNat ++ slice f 65 f.length
      _ = slice f 1 33 ++ slice f 33 65 ++ slice f 65 f.length := by rw [leBytes_difficultyField hl]; rfl
      _ = slice f 1 65 ++ slice f 65 f.length := by rw [slice_append_slice f (by decide) (by decide)]
      _ = slice f 1 f.length := slice_append_slice f (by decide) hl
  | M =>
    have hl : f.length = 93 := of_decide_eq_true h
    have hl' : 65 ≤ f.length := by omega
    rw [hl]
    calc preHashField f ++ leBytes 32 (difficultyField f 33).toNat ++ leBytes 28 (roundField f).toNat
      _ = slice f 1 33 ++ slice f 33 65 ++ slice f 65 93 := by
        rw [leBytes_difficultyField hl', leBytes_roundField hl.ge]; rfl
      _ = slice f 1 65 ++ slice f 65 93 := by rw [slice_append_slice f (by decide) (by decide)]
      _ = slice f 1 93 := slice_append_slice f (by decide) (by decide)

theorem encodeRequest_assembleOperands {op : Byte} {rest : List Byte} {m : Format}
    (hm : formatOf op = some m) (hl : m.lengthOk (op :: rest).length = true) :
    encodeRequest (assembleOperands m (op :: rest)) = op :: rest := by
  have hrest : slice (op :: rest) 1 (op :: rest).length = rest := slice_append_to_end [op] rest
  rw [encodeRequest, assembleOperands_opcode hm, encodeOperands_assembleOperands hl, hrest]

/-- A frame that decodes is the encoding of what it decodes to (R75). -/
theorem encodeRequest_of_decodeRequest {p : Port} {f : Frame} {i : Instr}
    (h : decodeRequest p f = .request i) : encodeRequest i = f := by
  obtain ⟨-, hd⟩ | ⟨_, _, -, -, hd⟩ | ⟨_, _, _, -, -, -, -, hd⟩ | ⟨_, _, _, rfl, hm, -, hl, hd⟩ :=
    decodeRequest_cases p f <;> cases hd.symm.trans h
  exact encodeRequest_assembleOperands hm hl

/-- Settles O3: what decodes is well formed, of its port, and written as the frame. -/
theorem eachFrameHasOneMeaning : Obligations.EachFrameHasOneMeaning := fun _ _ _ h =>
  ⟨decodeRequest_wf h, decodeRequest_port h, encodeRequest_of_decodeRequest h⟩

end Sys2Proof

/-! ### The checks of the decoder, in numbers -/

namespace Sys2Proof.Machine

/-- The bytes that are no opcode, in numbers (R74). -/
theorem formatOf_eq_none {op : Byte} (h : formatOf op = none) : op.toNat = 0 ∨ 7 < op.toNat := by
  unfold formatOf at h
  split_ifs at h
  bv_omega

/-- A port accepts the opcodes whose format is served there (R70, R161). -/
theorem portAccepts_iff (p : Port) (op : Byte) :
    PortAccepts p op ↔ ∃ m, formatOf op = some m ∧ m.port = p := by
  cases hm : formatOf op with
  | none =>
    have hop := formatOf_eq_none hm
    cases p <;> simp only [PortAccepts, reduceCtorEq, false_and, exists_false, iff_false] <;> omega
  | some m =>
    obtain ⟨rfl, rfl⟩ | ⟨rfl, rfl⟩ | ⟨rfl, rfl⟩ | ⟨rfl, rfl⟩ | ⟨rfl, rfl⟩ | ⟨rfl, rfl⟩ | ⟨rfl, rfl⟩ :=
      formatOf_eq_some hm <;> cases p <;> simp [PortAccepts, Format.port]

/-- The legal lengths of an opcode are those of its format (R60, R162). -/
theorem legalLength_iff {op : Byte} {m : Format} (hm : formatOf op = some m) (len : Nat) :
    LegalLength op len ↔ m.lengthOk len = true := by
  obtain ⟨rfl, rfl⟩ | ⟨rfl, rfl⟩ | ⟨rfl, rfl⟩ | ⟨rfl, rfl⟩ | ⟨rfl, rfl⟩ | ⟨rfl, rfl⟩ | ⟨rfl, rfl⟩ :=
    formatOf_eq_some hm <;> simp [LegalLength] <;> exact decide_eq_true_iff.symm

/-- A frame whose opcode the port does not accept is answered so, whatever its length (R161, R164). -/
theorem decodeRequest_of_not_portAccepts {p : Port} {op : Byte} {rest : List Byte}
    (h : ¬ PortAccepts p op) : decodeRequest p (op :: rest) = .error .illegalOpcode := by
  rw [portAccepts_iff] at h
  obtain ⟨hf, -⟩ | ⟨_, _, -, -, hd⟩ | ⟨_, _, m, hf, hm, hp, -⟩ | ⟨_, _, m, hf, hm, hp, -⟩ :=
    decodeRequest_cases p (op :: rest)
  · cases hf
  · exact hd
  · cases hf
    exact absurd ⟨m, hm, hp⟩ h
  · cases hf
    exact absurd ⟨m, hm, hp⟩ h

/-- A frame with an opcode of the port is decided by its length (R162, R164). -/
theorem decodeRequest_of_format {p : Port} {op : Byte} {m : Format} (rest : List Byte)
    (hm : formatOf op = some m) (hp : m.port = p) :
    decodeRequest p (op :: rest) =
      if m.lengthOk (op :: rest).length then .request (assembleOperands m (op :: rest))
      else .error .badLength := by
  simp only [decodeRequest, hm, hp, if_true]

/-- Settles O4: the port's opcodes are those of its formats, and the opcode's lengths those of its format. -/
theorem decodingChecksEmptyThenOpcodeThenLength : Obligations.DecodingChecksEmptyThenOpcodeThenLength := by
  refine ⟨fun _ => rfl, fun p op rest => ⟨decodeRequest_of_not_portAccepts, ?_, ?_⟩⟩
  · intro hop hlen
    obtain ⟨m, hm, hp⟩ := (portAccepts_iff p op).1 hop
    rw [decodeRequest_of_format rest hm hp]
    exact if_neg fun h => hlen ((legalLength_iff hm _).2 h)
  · intro hop hlen
    obtain ⟨m, hm, hp⟩ := (portAccepts_iff p op).1 hop
    refine ⟨_, ?_, assembleOperands_opcode hm (op :: rest)⟩
    rw [decodeRequest_of_format rest hm hp]
    exact if_pos ((legalLength_iff hm _).1 hlen)

/-! ### The responses -/

/-- The response to an error has a status byte and no result field (R161, R162). -/
theorem answer_of_illegalOpcode {p : Port} {f : Frame} (h : decodeRequest p f = .error .illegalOpcode) :
    answer p f = [0xE1#8] := answer_of_error h

theorem answer_of_badLength {p : Port} {f : Frame} (h : decodeRequest p f = .error .badLength) :
    answer p f = [0xE2#8] := answer_of_error h

/-- DECODE of a seal of NB bytes is answered with the nonce's bytes, which are the seal's number again (R93). -/
theorem decodeResponse_of_length_eq {b : Seal} (hb : b.length = 32) :
    decodeResponse b = 0x00#8 :: leBytes 32 (fromLE b) := by
  have hd : decodeSeal b = some (BitVec.ofNat 256 (fromLE b)) := if_pos hb
  unfold decodeResponse
  rw [hd]
  exact congrArg (fun v => 0x00#8 :: leBytes 32 v) (toNat_ofNat_fromLE rfl hb)

/-- A scan finds seals of NB bytes, and is exhausted in the round it was given (R130). -/
theorem scan_result (h : PreHash) (t : Work) (r : Round) (fuel i : Nat) :
    (∃ b, scan h t r fuel i = .found b ∧ b.length = 32) ∨ scan h t r fuel i = .exhausted r := by
  induction fuel generalizing i with
  | zero => exact .inr rfl
  | succ fuel ih =>
    cases hp : passes h (candidateAt r i) t with
    | true => exact .inl ⟨_, scan_succ_of_passes fuel hp, encodeSeal_length _⟩
    | false =>
      rw [scan_succ_of_fails fuel hp]
      exact ih (i + 1)

theorem mine_result (h : PreHash) (d : Difficulty) (r : Round) :
    (∃ b, mine h d r = .found b ∧ b.length = 32) ∨ mine h d r = .exhausted r :=
  scan_result _ _ _ _ _

/-- A request whose response is a status and n bytes is answered with them, n + 1 bytes in all (R61, R73). -/
theorem answer_status_leBytes {p : Port} {f : Frame} {i : Instr} (hd : decodeRequest p f = .request i)
    {st : Byte} {n v : Nat} (hr : callResponse i = st :: leBytes n v) :
    answer p f = st :: leBytes n v ∧ (answer p f).length = n + 1 := by
  rw [answer_of_request hd, hr]
  exact ⟨rfl, congrArg (· + 1) (leBytes_length n v)⟩

theorem callResponse_of_found {h : PreHash} {d : Difficulty} {r : Round} {b : Seal}
    (hm : mine h d r = .found b) : callResponse (.mine h d r) = response .ok b :=
  congrArg mineResponse hm

theorem callResponse_of_exhausted {h : PreHash} {d : Difficulty} {r r' : Round}
    (hm : mine h d r = .exhausted r') : callResponse (.mine h d r) = response .exhausted (roundBytes r') :=
  congrArg mineResponse hm

/-- The two rows of MINE: a seal has NB bytes, and the round is that of the call (R73, R146). -/
theorem answer_mine {p : Port} {f : Frame} {h : PreHash} {d : Difficulty} {r : Round}
    (hd : decodeRequest p f = .request (.mine h d r)) :
    (∀ b, mine h d r = .found b → answer p f = 0x00#8 :: b ∧ (answer p f).length = 33) ∧
    (∀ r', mine h d r = .exhausted r' →
      answer p f = 0x02#8 :: leBytes 28 r.toNat ∧ (answer p f).length = 29) := by
  obtain ⟨b, hm, hb⟩ | hm := mine_result h d r
  · refine ⟨fun b' hb' => ?_, fun r' hr' => nomatch hm.symm.trans hr'⟩
    cases hm.symm.trans hb'
    rw [answer_of_request hd, callResponse_of_found hm]
    exact ⟨rfl, congrArg (· + 1) hb⟩
  · exact ⟨fun b' hb' => (nomatch hm.symm.trans hb'),
      fun _ _ => answer_status_leBytes hd (callResponse_of_exhausted hm)⟩

/-- Settles O51: a frame's answer is its request's response, row by row. -/
theorem responsesFollowTheTable : Obligations.ResponsesFollowTheTable := fun _ _ =>
  ⟨fun _ hd => answer_status_leBytes hd rfl,
    fun _ hd =>
      ⟨fun hb => answer_status_leBytes hd (decodeResponse_of_length_eq hb),
        fun hb => (answer_of_request hd).trans (decodeResponse_of_length_ne hb)⟩,
    fun _ _ hd => answer_status_leBytes hd rfl,
    fun _ hd => answer_status_leBytes hd rfl,
    fun hd => answer_status_leBytes hd rfl,
    fun _ _ _ hd => answer_of_request hd,
    fun _ _ _ hd => answer_mine hd,
    answer_of_illegalOpcode, answer_of_badLength⟩

/-! ### The statuses a step can emit -/

/-- A response of port F: a value, NONE or a frame error (R61, R71). -/
def PortFResponse (f : Frame) : Prop :=
  f = [0x01#8] ∨ f = [0xE1#8] ∨ f = [0xE2#8] ∨ ∃ results : List Byte, f = 0x00#8 :: results

/-- A response of port M: a value, EXHAUSTED with a round's bytes or a frame error (R61, R71). -/
def PortMResponse (f : Frame) : Prop :=
  f = [0xE1#8] ∨ f = [0xE2#8] ∨ (∃ results : List Byte, f = 0x00#8 :: results) ∨
    ∃ results : List Byte, results.length = 28 ∧ f = 0x02#8 :: results

/-- From `s` to `t` at most one response is emitted, and it is one of its port's. -/
def EmitsAtMostOne (s t : State) : Prop :=
  (t.rspF = s.rspF ∧ t.rspM = s.rspM) ∨
  (t.rspM = s.rspM ∧ ∃ f, t.rspF = s.rspF ++ [f] ∧ PortFResponse f) ∨
  (t.rspF = s.rspF ∧ ∃ f, t.rspM = s.rspM ++ [f] ∧ PortMResponse f)

theorem errorResponse_portF (e : FrameError) : PortFResponse (response (errorStatus e) []) := by
  cases e with
  | illegalOpcode => exact .inr (.inl rfl)
  | badLength => exact .inr (.inr (.inl rfl))

theorem errorResponse_portM (e : FrameError) : PortMResponse (response (errorStatus e) []) := by
  cases e with
  | illegalOpcode => exact .inl rfl
  | badLength => exact .inr (.inl rfl)

theorem okResponse_portF (results : List Byte) : PortFResponse (response .ok results) :=
  .inr (.inr (.inr ⟨results, rfl⟩))

theorem okResponse_portM (results : List Byte) : PortMResponse (response .ok results) :=
  .inr (.inr (.inl ⟨results, rfl⟩))

theorem exhaustedResponse_portM (r : Round) : PortMResponse (response .exhausted (roundBytes r)) :=
  .inr (.inr (.inr ⟨_, leBytes_length _ _, rfl⟩))

/-- Every request of port F is owed a value or NONE. -/
theorem callResponse_portF {i : Instr} (hi : i.port = .f) : PortFResponse (callResponse i) := by
  cases i with
  | encode | checksum | t2t | getdiff | verify => exact okResponse_portF _
  | decode b =>
    by_cases hb : b.length = 32
    · exact .inr (.inr (.inr ⟨_, decodeResponse_of_length_eq hb⟩))
    · exact .inl (decodeResponse_of_length_ne hb)
  | mine => cases hi

theorem answer_portF (f : Frame) : PortFResponse (answer .f f) := by
  cases hd : decodeRequest .f f with
  | request i =>
    rw [answer_of_request hd]
    exact callResponse_portF (decodeRequest_port hd)
  | error e =>
    rw [answer_of_error hd]
    exact errorResponse_portF e

theorem fuStep_emits {s t : State} (h : fuStep s = .next t) : EmitsAtMostOne s t := by
  cases hq : s.reqF with
  | nil =>
    cases (handleFrame_of_waiting_nil (p := .f) hq).symm.trans h
    exact .inl ⟨rfl, rfl⟩
  | cons f q =>
    cases (handleFrame_f_of_waiting_cons hq).symm.trans h
    exact .inr (.inl ⟨rfl, _, rfl, answer_portF f⟩)

/-- MU's turn emits nothing but the error of a bad frame: the response of a call is DELIVER's (R133, R134). -/
theorem muStep_emits {s t : State} (h : muStep s = .next t) : EmitsAtMostOne s t := by
  obtain ⟨-, -, hm⟩ | ⟨-, _, q, b, d, r, -, -, hm⟩ | ⟨-, _, q, e, -, -, hm⟩ | ⟨-, hm⟩ | ⟨-, hm⟩ :=
    muStep_cases s <;> cases hm.symm.trans h
  · exact .inl ⟨rfl, rfl⟩
  · exact .inl ⟨rfl, rfl⟩
  · exact .inr (.inr ⟨rfl, _, rfl, errorResponse_portM e⟩)
  · obtain ⟨-, hrspM, -⟩ := evaluate_portM s
    obtain ⟨-, hrspF, -⟩ := evaluate_samePortF s
    exact .inl ⟨hrspF, hrspM⟩
  · exact .inl ⟨rfl, rfl⟩

theorem deliver_emits (s : State) : EmitsAtMostOne s (deliver s) := by
  obtain ⟨-, hd⟩ | ⟨-, hd⟩ | ⟨-, hd⟩ := deliver_cases s <;> rw [hd]
  · exact .inr (.inr ⟨rfl, _, rfl, okResponse_portM _⟩)
  · exact .inr (.inr ⟨rfl, _, rfl, exhaustedResponse_portM _⟩)
  · exact .inl ⟨rfl, rfl⟩

theorem perform_emits {e : Config.Event} {s t : State} (h : perform e s = .next t) : EmitsAtMostOne s t := by
  cases e with
  | sendF | sendM | reset =>
    cases h
    exact .inl ⟨rfl, rfl⟩
  | fu => exact fuStep_emits h
  | mu => exact muStep_emits h
  | takeM =>
    cases h
    exact deliver_emits s

/-- Settles O50: drawing the event emits nothing, and the event at most one response. -/
theorem onlyTheFiveStatusesAreEmitted : Obligations.OnlyTheFiveStatusesAreEmitted := by
  intro s t h
  have hemits : EmitsAtMostOne (afterEvent s) t := perform_emits h
  rw [EmitsAtMostOne, afterEvent_rspF, afterEvent_rspM] at hemits
  exact hemits

/-! ### How a host reads a response -/

theorem readReply_ok (i : Instr) (results : List Byte) :
    readReply i (response .ok results) = readResults i results := rfl

/-- A number in a result field of the operation's length is read back (R73). -/
theorem readNumber_leBytes {w n : Nat} (hw : w = 8 * n) (v : BitVec w) :
    (if (leBytes n v.toNat).length = n then some (AsmReply.ok (.int (fromLE (leBytes n v.toNat)))) else none) =
      some (.ok (.int v.toNat)) := by
  rw [if_pos (leBytes_length _ _), fromLE_leBytes_toNat hw]

/-- The clamp is the lesser of the difficulty and the greatest threshold (R110). -/
theorem targetToThreshold_toNat (d : Difficulty) : (targetToThreshold d).toNat = min d.toNat (2 ^ 64 - 1) := by
  unfold targetToThreshold
  simp only [Config.M64]
  split
  case isTrue hd => rw [BitVec.toNat_setWidth, Nat.mod_eq_of_lt (by omega), Nat.min_eq_left hd]
  case isFalse hd => rw [BitVec.toNat_ofNat, Nat.mod_eq_of_lt (by omega), Nat.min_eq_right (by omega)]

theorem readReply_encode (n : Nonce) :
    readReply (.encode n) (callResponse (.encode n)) = some (.ok (.bytes (encodeSeal n))) := by
  rw [callResponse, readReply_ok, readResults]
  exact if_pos (encodeSeal_length n)

theorem readReply_decode (b : Seal) :
    readReply (.decode b) (callResponse (.decode b)) =
      if b.length = 32 then some (.ok (.int (fromLE b))) else some .none := by
  by_cases hb : b.length = 32
  · have hr : callResponse (.decode b) = response .ok (leBytes 32 (fromLE b)) := decodeResponse_of_length_eq hb
    have hread := readNumber_leBytes (n := 32) rfl (BitVec.ofNat 256 (fromLE b))
    rw [toNat_ofNat_fromLE rfl hb] at hread
    rw [if_pos hb, hr, readReply_ok]
    exact hread
  · have hr : callResponse (.decode b) = [0x01#8] := decodeResponse_of_length_ne hb
    rw [if_neg hb, hr]
    rfl

theorem readReply_verify (h : PreHash) (b : Seal) (d : Difficulty) :
    readReply (.verify h b d) (callResponse (.verify h b d)) = some (.okBool (verify h b d)) := by
  refine (readReply_ok _ _).trans ?_
  cases verify h b d <;> rfl

theorem readReply_exhausted (h : PreHash) (d : Difficulty) (r : Round) (results : List Byte) :
    readReply (.mine h d r) (response .exhausted results) =
      if results.length = 28 then some (.exhausted (fromLE results)) else none := rfl

theorem readReply_of_found {h : PreHash} {d : Difficulty} {r : Round} {b : Seal}
    (hm : mine h d r = .found b) (hb : b.length = 32) :
    readReply (.mine h d r) (callResponse (.mine h d r)) = some (.ok (.bytes b)) := by
  rw [callResponse_of_found hm, readReply_ok, readResults]
  exact if_pos hb

theorem readReply_of_exhausted {h : PreHash} {d : Difficulty} {r r' : Round}
    (hm : mine h d r = .exhausted r') :
    readReply (.mine h d r) (callResponse (.mine h d r)) = some (.exhausted r'.toNat) := by
  have hlength : (roundBytes r').length = 28 := leBytes_length _ _
  have hvalue : fromLE (roundBytes r') = r'.toNat := fromLE_leBytes_toNat (n := 28) rfl r'
  rw [callResponse_of_exhausted hm, readReply_exhausted, if_pos hlength, hvalue]

/-- Settles O52: one reading for each operation, and the two errors whatever was asked. -/
theorem repliesAreReadBack : Obligations.RepliesAreReadBack := by
  refine ⟨readReply_encode, readReply_decode, ?_, ?_, ?_, readReply_verify, ?_, fun _ => ⟨rfl, rfl⟩⟩
  · intro h n
    exact (readReply_ok _ _).trans (readNumber_leBytes (n := 8) rfl (checksum h n))
  · intro d
    rw [← targetToThreshold_toNat]
    exact (readReply_ok _ _).trans (readNumber_leBytes (n := 8) rfl (targetToThreshold d))
  · exact (readReply_ok _ _).trans (readNumber_leBytes (n := 32) rfl currentDifficulty)
  · intro h d r
    obtain ⟨b, hm, hb⟩ | hm := mine_result h d r
    · rw [readReply_of_found hm hb, hm]
    · rw [readReply_of_exhausted hm, hm]

/-! ### Requests as they are written -/

/-- A number of the field's width is read as itself. -/
theorem fitInt_toNat {w : Nat} (v : BitVec w) : fitInt w v.toNat = some v := by
  rw [fitInt, if_pos v.isLt, BitVec.ofNat_toNat, BitVec.setWidth_eq]

theorem fitPreHash_of_ok {h : PreHash} (hh : preHashOk h = true) : fitPreHash h = some h := if_pos hh

/-- Settles O7: the mnemonic selects the operation, and each operand fits its field. -/
theorem writtenRequestIsReadBack : Obligations.WrittenRequestIsReadBack := by
  intro i hi
  cases i with
  | encode n => simp [assemble, mnemonicOf, asmOperandsOf, fitInt_toNat]
  | decode b => simp [assemble, mnemonicOf, asmOperandsOf]
  | checksum h n =>
    have hh : preHashOk h = true := hi
    simp [assemble, mnemonicOf, asmOperandsOf, fitInt_toNat, fitPreHash_of_ok hh]
  | t2t d => simp [assemble, mnemonicOf, asmOperandsOf, fitInt_toNat]
  | getdiff => simp [assemble, mnemonicOf, asmOperandsOf]
  | verify h b d =>
    have hh : preHashOk h = true := hi
    simp [assemble, mnemonicOf, asmOperandsOf, fitInt_toNat, fitPreHash_of_ok hh]
  | mine h d r =>
    have hh : preHashOk h = true := hi
    simp [assemble, mnemonicOf, asmOperandsOf, fitInt_toNat, fitPreHash_of_ok hh]

end Sys2Proof.Machine
end

section
/-! PROOFS. The family 41_work_function.md: the work value is the byte sum of both operands mod 2^64 (R101, R104),
without a wrap at CORE's parameters (R105), and CHECKSUM answers it (R103). -/

/-! ### The bytes of a number, compared -/

namespace Sys2Proof

/-- Numbers of 8n bits with the same n bytes are the same. -/
theorem leBytes_toNat_inj {w n : Nat} (hw : w = 8 * n) {u v : BitVec w} :
    leBytes n u.toNat = leBytes n v.toNat ↔ u = v := by
  refine ⟨fun h => ?_, fun h => h ▸ rfl⟩
  rw [← ofNat_fromLE_leBytes hw u, h, ofNat_fromLE_leBytes hw]

/-- The greatest 256-bit number is written as 32 bytes of all ones. -/
theorem leBytes_allOnes : leBytes 32 (BitVec.allOnes 256).toNat = List.replicate 32 0xFF#8 := rfl

end Sys2Proof

namespace Sys2Proof.Machine

/-! ### The plain byte sum -/

@[simp] theorem byteSum_nil : byteSum [] = 0 := rfl

@[simp] theorem byteSum_cons (c : Byte) (b : List Byte) : byteSum (c :: b) = c.toNat + byteSum b := rfl

@[simp] theorem byteSum_append (b b' : List Byte) : byteSum (b ++ b') = byteSum b + byteSum b' := by
  rw [byteSum, List.map_append, List.sum_append, byteSum, byteSum]

@[simp] theorem byteSum_replicate (k : Nat) (c : Byte) : byteSum (List.replicate k c) = k * c.toNat := by
  rw [byteSum, List.map_replicate, List.sum_replicate, smul_eq_mul]

/-- The byte sum does not see the order of the bytes (R104). -/
theorem byteSum_perm {b b' : List Byte} (h : b.Perm b') : byteSum b = byteSum b' :=
  (h.map BitVec.toNat).sum_eq

theorem byteSum_le (b : List Byte) : byteSum b ≤ 255 * b.length := by
  induction b with
  | nil => simp
  | cons c b ih =>
    have hc := c.isLt
    rw [byteSum_cons, List.length_cons]
    omega

/-- Only all-ones bytes reach the greatest sum (R105). -/
theorem byteSum_eq_max_iff (b : List Byte) :
    byteSum b = 255 * b.length ↔ b = List.replicate b.length 0xFF#8 := by
  induction b with
  | nil => simp
  | cons c b ih =>
    have hc := c.isLt
    have hle := byteSum_le b
    have hhead : c = 0xFF#8 ↔ c.toNat = 255 := BitVec.toNat_inj.symm
    rw [List.length_cons, List.replicate_succ, List.cons.injEq, hhead, ← ih, byteSum_cons]
    omega

/-- 32 bytes reach their greatest sum as all ones alone (R105). -/
theorem byteSum_eq_8160_iff {b : List Byte} (hb : b.length = 32) :
    byteSum b = 8160 ↔ b = List.replicate 32 0xFF#8 := by
  rw [← hb, ← byteSum_eq_max_iff, hb]

/-! ### The accumulator -/

/-- The accumulator step adds the unsigned byte mod 2^64 (R101). -/
theorem accStep_toNat (acc : Work) (b : Byte) : (accStep acc b).toNat = (acc.toNat + b.toNat) % 2 ^ 64 := by
  rw [accStep, add64, BitVec.toNat_ofNat, BitVec.toNat_setWidth_of_le (by decide)]

/-- Settles O8: the sum of a word and a byte passes 2^64 at most once. -/
theorem accumulatorStepWrapsAround : Obligations.AccumulatorStepWrapsAround := by
  refine ⟨fun acc b => ⟨accStep_toNat acc b, fun hwrap => ?_⟩, rfl, rfl, rfl, rfl⟩
  have hacc := acc.isLt
  have hb := b.isLt
  rw [accStep_toNat]
  omega

/-- Accumulating a byte sequence adds its byte sum mod 2^64 (R100, R104). -/
theorem foldl_accStep_toNat (b : List Byte) (acc : Work) :
    (b.foldl accStep acc).toNat = (acc.toNat + byteSum b) % 2 ^ 64 := by
  induction b generalizing acc with
  | nil => exact (Nat.mod_eq_of_lt acc.isLt).symm
  | cons c b ih => rw [List.foldl_cons, ih, accStep_toNat, Nat.mod_add_mod, byteSum_cons, Nat.add_assoc]

/-! ### The work value -/

/-- The work value is the byte sum of both operands mod 2^64 (R104). -/
theorem checksum_toNat (h : PreHash) (n : Nonce) :
    (checksum h n).toNat = (byteSum h + byteSum (leBytes 32 n.toNat)) % 2 ^ 64 := by
  rw [checksum, foldl_accStep_toNat, byteSum_append, BitVec.toNat_zero, Nat.zero_add]

/-- Operands with the same bytes in any order have the same work value (R104). -/
theorem checksum_eq_of_perm {h h' : PreHash} {n n' : Nonce}
    (hp : (h ++ leBytes 32 n.toNat).Perm (h' ++ leBytes 32 n'.toNat)) : checksum h n = checksum h' n' := by
  have hsum := byteSum_perm hp
  rw [byteSum_append, byteSum_append] at hsum
  apply BitVec.eq_of_toNat_eq
  rw [checksum_toNat, checksum_toNat, hsum]

/-- Settles O9: the accumulator's closed form, and the byte sum's independence of the order. -/
theorem checksumIsTheByteSum : Obligations.ChecksumIsTheByteSum :=
  ⟨checksum_toNat, fun _ _ _ _ => checksum_eq_of_perm⟩

theorem byteSum_nonce_le (n : Nonce) : byteSum (leBytes 32 n.toNat) ≤ 8160 := by
  simpa using byteSum_le (leBytes 32 n.toNat)

/-- Only the greatest nonce has all-ones bytes, and so the greatest sum (R105). -/
theorem byteSum_nonce_eq_8160_iff (n : Nonce) :
    byteSum (leBytes 32 n.toNat) = 8160 ↔ n = BitVec.allOnes 256 := by
  rw [byteSum_eq_8160_iff (leBytes_length _ _), ← leBytes_allOnes, leBytes_toNat_inj rfl]

/-- With a pre-hash of 32 bytes the work value is the byte sum itself (R105). -/
theorem checksum_toNat_of_length {h : PreHash} (hh : h.length = 32) (n : Nonce) :
    (checksum h n).toNat = byteSum h + byteSum (leBytes 32 n.toNat) := by
  have hle := byteSum_le h
  have hle' := byteSum_nonce_le n
  rw [checksum_toNat, Nat.mod_eq_of_lt (by omega)]

/-- Settles O10: each operand adds at most 32 × 255, and reaches it as all ones alone. -/
theorem checksumNeverWrapsAtThirtyTwoBytes : Obligations.ChecksumNeverWrapsAtThirtyTwoBytes := by
  intro h n hh
  have hsum := checksum_toNat_of_length hh n
  have hle := byteSum_le h
  have hle' := byteSum_nonce_le n
  refine ⟨hsum, by omega, ?_⟩
  rw [← byteSum_eq_8160_iff hh, ← byteSum_nonce_eq_8160_iff]
  omega

/-! ### CHECKSUM -/

/-- CHECKSUM's frame of opcode, 32-byte pre-hash and nonce decodes to the request (R64, R103). -/
theorem decodeRequest_checksumFrame {h : PreHash} (hh : h.length = 32) (n : Nonce) :
    decodeRequest .f (0x03#8 :: h ++ leBytes 32 n.toNat) = .request (.checksum h n) :=
  decodeUndoesEncode (.checksum h n) (decide_eq_true hh)

/-- A CHECKSUM frame that is not 65 bytes long has a bad length (R103). -/
theorem decodeRequest_checksumFrame_of_length_ne {rest : List Byte} (hl : rest.length ≠ 64) :
    decodeRequest .f (0x03#8 :: rest) = .error .badLength := by
  rw [decodeRequest_of_format (p := .f) (m := .HN) rest rfl rfl]
  exact if_neg (by simpa [Format.lengthOk, Format.minLength] using hl)

/-- A single bit 255 is the last of the 32 bytes, 0x80. -/
theorem byteSum_bit255 : byteSum (leBytes 32 (BitVec.ofNat 256 (2 ^ 255)).toNat) = 128 := rfl

/-- The zero nonce adds nothing to the pre-hash's sum. -/
theorem byteSum_zero_nonce : byteSum (leBytes 32 (0#256).toNat) = 0 := rfl

/-- Bit 255 of the nonce adds 0x80 to the work value, of any pre-hash (R103). -/
theorem checksum_bit255 (h : PreHash) :
    checksum h (BitVec.ofNat 256 (2 ^ 255)) = checksum h 0#256 + 128#64 := by
  apply BitVec.eq_of_toNat_eq
  rw [BitVec.toNat_add, checksum_toNat, checksum_toNat, byteSum_bit255, byteSum_zero_nonce, Nat.mod_add_mod]
  rfl

/-- Settles O26: CHECKSUM responds on port F with the work value, and the corner cases are byte sums. -/
theorem checksumAnswersTheWork : Obligations.ChecksumAnswersTheWork := by
  refine ⟨fun h n s => ⟨exec_eq_respond (.checksum h n) s rfl, fun hh => decodeRequest_checksumFrame hh n⟩,
    fun _ => decodeRequest_checksumFrame_of_length_ne, ?_, ?_, checksum_bit255, fun h _ _ hp => ?_⟩
  · rw [checksum_toNat_of_length List.length_replicate, byteSum_replicate, byteSum_zero_nonce]
    rfl
  · obtain ⟨-, -, hmax⟩ := checksumNeverWrapsAtThirtyTwoBytes (List.replicate 32 0xFF#8) (BitVec.allOnes 256)
      List.length_replicate
    exact hmax.2 ⟨rfl, rfl⟩
  · exact checksum_eq_of_perm (hp.append_left h)

end Sys2Proof.Machine
end
